-- ==== Sys2Proof/Word.lean ====
section
/-! DEFINITION. The word types of the block: lanes, commands, the register file's shape. -/

namespace Sys2Proof

/-- One lane, round constant or intermediate value: an unsigned 32-bit word, bit 0 least significant (R6). -/
abbrev Word := BitVec 32

/-- One command word, format C (R52). -/
abbrev CommandWord := BitVec 38

/-- The 12 lanes, in the order `S[0], ..., S[11]` (R10). -/
abbrev Lanes := Vector Word 12

end Sys2Proof
end

