-- ==== Sys2Proof/Config.lean ====
section
/-! DEFINITION. What the spec leaves without a value: the lanes after a reset step. Every other parameter is fixed
(R5), so it is a definition elsewhere and not configuration. -/

namespace Sys2Proof

/-- The free value number `n`: nothing constrains it. A reset step draws one for each lane (R23, R151, R152; U2, U3
ask for a fresh draw per lane per reset). DESIGN CHOICE, log 3. -/
opaque Config.freeLane : Nat → Word

/-- The twelve lanes after a reset step: the draws `n` to `n + 11` (log 3). -/
def Config.freeLanes (n : Nat) : Lanes := Vector.ofFn fun i : Fin 12 => Config.freeLane (n + i.val)

end Sys2Proof
end

