-- ==== Sys2Proof/Machine/State.lean ====
section
/-! DEFINITION. The machine's state as plain data, why a step can stop, and the state right after reset. -/

namespace Sys2Proof.Machine

/-- The value of the sticky fault register `ERR`, one constructor per code 0 to 3 (R16). -/
inductive ErrCode where
  /-- 0: no fault since reset. -/
  | none
  /-- 1: a PERM with more than 12 rounds was accepted (R126). -/
  | roundCountRange
  /-- 2: an RDL or WRL with a lane index above 11 was accepted (R127). -/
  | laneIndexRange
  /-- 3: a command with the reserved op was accepted (R128). -/
  | reservedOp
  deriving DecidableEq, Repr

/-- The input pins at one rising edge of `clk` (R50). -/
structure Pins where
  /-- `rst`, the synchronous reset, active high (R150). -/
  rst : Bool
  /-- `cmd_valid`: the host offers the word on `cmd`. -/
  cmdValid : Bool
  /-- `cmd`, a format C word. -/
  cmd : CommandWord
  deriving DecidableEq, Repr

/-- The block. `lanes`, `ridx` and `err` are all the state the spec gives it (10_state.md, 390 bits); the other three
fields are the model's own: the host's coming pin values, the answers given so far, and how many free values have been
drawn. -/
structure State where
  /-- `S[0..11]`, the permutation state register file (R10). -/
  lanes : Lanes
  /-- The sequencer index: the ROM index of the next round, 12 when idle (R14). -/
  ridx : BitVec 4
  /-- The sticky fault code `ERR` (R16). -/
  err : ErrCode
  /-- The input pins at the coming edges, the next one first; after its end the pins idle. DESIGN CHOICE, log 1. -/
  inputs : List Pins
  /-- The `respond(v)` events so far, oldest first (R51). DESIGN CHOICE, log 2. -/
  responses : List Word
  /-- How many values of `Config.freeLane` have been drawn. DESIGN CHOICE, log 3. -/
  draws : Nat
  deriving DecidableEq, Repr

/-- Why the machine stops. -/
inductive Fault where
  /-- Raised by a step, or by ROUND, when `ridx` is 13, 14 or 15: no rule gives a step from there but reset (U4, stuck).
  Safe: no run reaches such a state (R24). Log 4. -/
  | ridxUnreachable
  deriving DecidableEq, Repr

/-- Why an instruction has no meaning. -/
inductive Refusal where
  /-- Raised by an arm of `exec` for an instruction the model does not cover yet; no arm raises it now. Safe. -/
  | notModelled (mnemonic : String)
  deriving DecidableEq, Repr

/-- The block right after a reset step (R23, R151): idle, no fault, every lane an unspecified value (the draws 0 to 11,
log 3), nothing offered yet (log 1), nothing answered yet (log 2). -/
def State.reset : State where
  lanes := Config.freeLanes 0
  ridx := 12#4
  err := .none
  inputs := []
  responses := []
  draws := 12

end Sys2Proof.Machine
end

