-- ==== Sys2Proof/Machine/Flags.lean ====
section
/-! DEFINITION. The predicates and status bits computed from the state: BUSY, halted, `cmd_ready`, STATUS. The round
function itself has no flags (R16). -/

namespace Sys2Proof.Machine

/-- The 2-bit code of a fault (R16, R125). -/
def ErrCode.code : ErrCode → BitVec 2
  | .none => 0#2
  | .roundCountRange => 1#2
  | .laneIndexRange => 2#2
  | .reservedOp => 3#2

/-- `busy`: a permutation is in progress (R15). -/
def State.busy (s : State) : Bool := decide (s.ridx ≠ 12#4)

/-- Halted: a fault has been raised since reset (R130). -/
def State.halted (s : State) : Bool := decide (s.err ≠ .none)

/-- The output `cmd_ready`: idle and not halted; it depends on the state only (R50, R51). -/
def State.cmdReady (s : State) : Bool := !s.busy && !s.halted

/-- The output `status[2:0]`: ERR in bits 2:1, BUSY in bit 0 (R17). -/
def State.status (s : State) : BitVec 3 := s.err.code ++ BitVec.ofBool s.busy

end Sys2Proof.Machine
end

