-- ==== Sys2Proof/Machine/Operands.lean ====
section
/-! DEFINITION. The two readings of the 4-bit `idx` operand (R61). -/

namespace Sys2Proof.Machine

/-- `idx` as a lane index: 0 to 11 name a cell of the lane space, 12 to 15 name none (R30, R38). -/
def laneIndex? (idx : BitVec 4) : Option (Fin 12) :=
  if h : idx.toNat < 12 then some ⟨idx.toNat, h⟩ else none

/-- `idx` as a round count R: the ROM index `12 - R` at which the operation starts, computed only for R at most 12
(R73, R118). -/
def startIndex? (idx : BitVec 4) : Option (BitVec 4) :=
  if idx.toNat ≤ 12 then some (12#4 - idx) else none

end Sys2Proof.Machine
end

