-- ==== Sys2Proof/Machine/Ops.lean ====
section
/-! DEFINITION. The named operations over the state: lanes, the sequencer index, responses, fault entry, the reset
step (which is the only return from a fault), the input pins and acceptance. -/

namespace Sys2Proof.Machine

/-- `S[i]` (R9, R36). -/
def State.readLane (s : State) (i : Fin 12) : Word := s.lanes[i.val]

/-- `S[i] <- v`: one lane and nothing else (R9, R72). -/
def State.writeLane (s : State) (i : Fin 12) (v : Word) : State := { s with lanes := s.lanes.set i.val v }

/-- `ridx <- k` (R9). -/
def State.setRidx (s : State) (k : BitVec 4) : State := { s with ridx := k }

/-- `respond(v)`: the answer as an output event, in the order of acceptance (R9, R51). -/
def State.respond (s : State) (v : Word) : State := { s with responses := s.responses ++ [v] }

/-- Fault entry, shared by the three faults: `ERR <- code` and nothing else; nothing is saved and there is no handler
(R129). -/
def State.raise (s : State) (c : ErrCode) : State := { s with err := c }

/-- What a reset step does to the block (R151), also in the middle of a permutation (R152): idle, no fault, every lane
a fresh free value (log 3). It is the only way out of the halted state (R135). -/
def State.resetBlock (s : State) : State :=
  { s with lanes := Config.freeLanes s.draws, ridx := 12#4, err := .none, draws := s.draws + 12 }

/-- The pins when the host drives nothing. -/
def idlePins : Pins := { rst := false, cmdValid := false, cmd := 0#38 }

/-- The pins at the next edge (log 1). -/
def State.pins (s : State) : Pins := s.inputs.headD idlePins

/-- The edge is past: its pin values are gone. -/
def State.advance (s : State) : State := { s with inputs := s.inputs.tail }

/-- A command takes its effect only when the block is ready; otherwise it is not accepted and leaves no trace (R70). -/
def accept (s : State) (effect : State → State) : Host.Outcome State Fault Refusal :=
  .next (if s.cmdReady then effect s else s)

/-- An effect on the lane that `idx` names, or LaneIndexRange where it names none (R127). -/
def withLane (idx : BitVec 4) (s : State) (effect : Fin 12 → State) : State :=
  match laneIndex? idx with
  | some i => effect i
  | none => s.raise .laneIndexRange

end Sys2Proof.Machine
end

