-- ==== Sys2Proof/Machine/HostCommands.lean ====
section
/-! DEFINITION. The host commands RDL, WRL, PERM and the reserved command word (40_host_commands.md, R128). -/

namespace Sys2Proof.Machine

/-- RDL (R71): answer the lane, or LaneIndexRange before any answer. -/
def execRdl (idx : BitVec 4) (s : State) : Host.Outcome State Fault Refusal :=
  accept s fun s => withLane idx s fun i => s.respond (s.readLane i)

/-- WRL (R72): write one lane, or LaneIndexRange and no lane. -/
def execWrl (idx : BitVec 4) (data : Word) (s : State) : Host.Outcome State Fault Refusal :=
  accept s fun s => withLane idx s fun i => s.writeLane i data

/-- PERM (R73): set the sequencer going at `12 - R`, or RoundCountRange before the subtraction (R126). -/
def execPerm (idx : BitVec 4) (s : State) : Host.Outcome State Fault Refusal :=
  accept s fun s =>
    match startIndex? idx with
    | some k => s.setRidx k
    | none => s.raise .roundCountRange

/-- A reserved command word (R57, R128): ReservedOp, whatever its other bits. -/
def execReserved (s : State) : Host.Outcome State Fault Refusal :=
  accept s fun s => s.raise .reservedOp

end Sys2Proof.Machine
end

