-- ==== Sys2Proof/Machine/Round.lean ====
section
/-! DEFINITION. The round function (41_round_function.md) and the ROUND micro-operation (R111). All index arithmetic on
columns is modulo 4, which is the arithmetic of `Fin 4`. -/

namespace Sys2Proof.Machine

/-- Rotate-left by R7: bit `j` goes to bit `(j + n) mod 32`, for `0 < n < 32`. -/
def rotl (x : Word) (n : Nat) : Word := (x <<< n) ||| (x >>> (32 - n))

/-- The nonlinear relation of step 6, `(¬x & y) ⊕ z` (R96, R101). -/
def chi (x y z : Word) : Word := (~~~x &&& y) ^^^ z

/-- `A[i] = S[i]` (R11). -/
def planeA (x : Lanes) (i : Fin 4) : Word := x[i.val]

/-- `B[i] = S[4+i]` (R11). -/
def planeB (x : Lanes) (i : Fin 4) : Word := x[4 + i.val]

/-- `C[i] = S[8+i]` (R11). -/
def planeC (x : Lanes) (i : Fin 4) : Word := x[8 + i.val]

/-- Step 1, the column parity `p` (R91). -/
def parity (x : Lanes) (i : Fin 4) : Word := planeA x i ^^^ planeB x i ^^^ planeC x i

/-- Step 2, the expansion `e` of a parity vector (R92). -/
def expansion (p : Fin 4 → Word) (i : Fin 4) : Word := rotl (p (i - 1)) 5 ^^^ rotl (p (i - 1)) 14

/-- The expansion of a state's own parity. -/
def expand (x : Lanes) : Fin 4 → Word := expansion (parity x)

/-- Step 3, `t[0..4)`: the round constant enters lane 0 only (R93). -/
def tA (x : Lanes) (rc : Word) (i : Fin 4) : Word :=
  if i = 0 then expand x i ^^^ planeA x i ^^^ rc else expand x i ^^^ planeA x i

/-- Step 4, `t[4..8)`: plane B with its own column's `e`, moved one lane position up. The explicit pairing list of R94
wins over the source's opening formula (C1). -/
def tB (x : Lanes) (i : Fin 4) : Word := expand x (i - 1) ^^^ planeB x (i - 1)

/-- Step 5, `t[8..12)`: the rotation applies to the XOR's result (R95). -/
def tC (x : Lanes) (i : Fin 4) : Word := rotl (expand x i ^^^ planeC x i) 11

/-- Step 6a, the new plane A (R96). -/
def newA (x : Lanes) (rc : Word) (i : Fin 4) : Word := chi (tB x i) (tC x i) (tA x rc i)

/-- Step 6b, the new plane B (R97). -/
def newB (x : Lanes) (rc : Word) (i : Fin 4) : Word := rotl (chi (tC x i) (tA x rc i) (tB x i)) 1

/-- Step 6c, the new plane C, moved two lane positions (R98). -/
def newC (x : Lanes) (rc : Word) (i : Fin 4) : Word := rotl (chi (tA x rc (i + 2)) (tB x (i + 2)) (tC x (i + 2))) 8

/-- `Round(S, rc)`: step 7 puts the new planes back in lane order, all computed from the lanes before the round (R99). -/
def roundFn (x : Lanes) (rc : Word) : Lanes :=
  #v[newA x rc 0, newA x rc 1, newA x rc 2, newA x rc 3,
     newB x rc 0, newB x rc 1, newB x rc 2, newB x rc 3,
     newC x rc 0, newC x rc 1, newC x rc 2, newC x rc 3]

/-- Rounds in a row, one constant each (R74). -/
def applyRounds (x : Lanes) (rcs : List Word) : Lanes := rcs.foldl roundFn x

/-- `S <- Round(S, rc)` and `ridx <- ridx + 1`, together (R111). -/
def State.runRound (s : State) (rc : Word) : State :=
  { s with lanes := roundFn s.lanes rc, ridx := s.ridx + 1#4 }

/-- ROUND (R90, R111). It runs while the sequencer is active, `ridx` 0 to 11 (R110); at 12 the sequencer is inactive and
nothing happens; 13 to 15 are stuck (U4, log 4). -/
def execRound (rc : Word) (s : State) : Host.Outcome State Fault Refusal :=
  if s.ridx.toNat < 12 then .next (s.runRound rc)
  else if s.ridx = 12#4 then .next s
  else .fault .ridxUnreachable

end Sys2Proof.Machine
end

