-- ==== Sys2Proof/Syntax.lean ====
section
/-! DEFINITION. The instructions: one constructor per row of spec/opcode_table.json. -/

namespace Sys2Proof

/-- The five rows of the opcode table. A command keeps its whole 4-bit `idx` field, so that the encodings whose
index is out of range (R58) are instructions too: their meaning is to raise the fault the spec names. -/
inductive Instr where
  /-- RDL: read lane `idx` (R71). Its `data` field is ignored (R59) and is no operand. -/
  | rdl (idx : BitVec 4)
  /-- WRL: write `data` to lane `idx` (R72). -/
  | wrl (idx : BitVec 4) (data : Word)
  /-- PERM: run `idx` rounds (R73). Its `data` field is ignored (R59) and is no operand. -/
  | perm (idx : BitVec 4)
  /-- Any command word with `op = 0b11` (R57, R128); its other bits are not examined. -/
  | reserved
  /-- ROUND: the micro-operation of a ROM word, whose 32 bits are the round constant (R60, R90). -/
  | round (rc : Word)
  deriving DecidableEq, Repr

end Sys2Proof
end

