-- ==== Sys2Proof/Machine/Dispatch.lean ====
section
/-! DEFINITION. One arm per instruction, each a direct call of its meaning. -/

namespace Sys2Proof.Machine

def exec (i : Instr) (s : State) : Host.Outcome State Fault Refusal :=
  match i with
  | .rdl idx => Sys2Proof.Machine.execRdl idx s
  | .wrl idx data => Sys2Proof.Machine.execWrl idx data s
  | .perm idx => Sys2Proof.Machine.execPerm idx s
  | .reserved => Sys2Proof.Machine.execReserved s
  | .round rc => Sys2Proof.Machine.execRound rc s

end Sys2Proof.Machine
end

