-- ==== Sys2Proof/Decode.lean ====
section
/-! DEFINITION. The decoder, total on every word of both formats (R62), and after it the encoder (R52 to R57, R60). -/

namespace Sys2Proof

/-! ### Fields of a command word (R52, R61) -/

/-- Field `op`, bits 37:36. -/
def opField (w : CommandWord) : BitVec 2 := w.extractLsb' 36 2

/-- Field `idx`, bits 35:32, unsigned, no scaling and no offset. -/
def idxField (w : CommandWord) : BitVec 4 := w.extractLsb' 32 4

/-- Field `data`, bits 31:0, the lane value bit for bit. -/
def dataField (w : CommandWord) : Word := w.extractLsb' 0 32

/-- A command word from its three fields, `op` on top (R52). -/
def commandWord (op : BitVec 2) (idx : BitVec 4) (data : Word) : CommandWord := op ++ idx ++ data

/-! ### The decoder -/

/-- The op map of R53: only `op` selects the instruction (R54 to R57). -/
def decodeCommand (w : CommandWord) : Instr :=
  if opField w = 0b00#2 then .rdl (idxField w)
  else if opField w = 0b01#2 then .wrl (idxField w) (dataField w)
  else if opField w = 0b10#2 then .perm (idxField w)
  else .reserved

/-- Format K: every ROM word is a ROUND and all its bits are the constant (R60). -/
def decodeRomWord (w : Word) : Instr := .round w

/-- The words of the two formats: commands travel on the command port, ROM words are fetched by the sequencer. -/
inductive CodeWord where
  | command (w : CommandWord)
  | romWord (w : Word)
  deriving DecidableEq, Repr

/-- Every word of either format is an instruction (R62, R60). -/
def decode : CodeWord → Instr
  | .command w => decodeCommand w
  | .romWord w => decodeRomWord w

/-- Why a number is no word of the format its width asks for. -/
inductive DecodeError where
  /-- More than the 38 bits of format C (R52). -/
  | commandTooWide
  /-- More than the 32 bits of format K (R60). -/
  | romWordTooWide
  deriving DecidableEq, Repr

/-- The word a number of `nbits` bits stands for: a row of the table wider than 32 bits is a command (38 bits, 40 in
whole bytes), any other a ROM word. -/
def codeWordOf (nbits w : Nat) : Except DecodeError CodeWord :=
  if nbits ≤ 32 then
    if w < 2 ^ 32 then .ok (.romWord (BitVec.ofNat 32 w)) else .error .romWordTooWide
  else
    if w < 2 ^ 38 then .ok (.command (BitVec.ofNat 38 w)) else .error .commandTooWide

/-- The instruction an opcode-table word decodes to; none where the number has bits its format has not. -/
def decodeTableWord (nbits w : Nat) : Option Instr :=
  match codeWordOf nbits w with
  | .ok c => some (decode c)
  | .error _ => none

/-! ### The encoder -/

/-- The word of an instruction, ignored bits zero (the canonical form of R54 and R56; `.word 0x3000000000` for the
reserved row). -/
def encode : Instr → CodeWord
  | .rdl idx => .command (commandWord 0b00#2 idx 0#32)
  | .wrl idx data => .command (commandWord 0b01#2 idx data)
  | .perm idx => .command (commandWord 0b10#2 idx 0#32)
  | .reserved => .command (commandWord 0b11#2 0#4 0#32)
  | .round rc => .romWord rc

/-- How many bits a word has (opcode_table.json, "width"). -/
def CodeWord.width : CodeWord → Nat
  | .command _ => 38
  | .romWord _ => 32

/-- A word as a number. -/
def CodeWord.toNat : CodeWord → Nat
  | .command w => w.toNat
  | .romWord w => w.toNat

end Sys2Proof
end

