-- ==== Sys2Proof/Machine/Rom.lean ====
section
/-! DEFINITION. The round-constant ROM: a constant of the block, not state and not configuration (R18, R19). -/

namespace Sys2Proof.Machine

/-- The schedule of R18, index 0 to 11. The listed values win over the prose of the source (C2). -/
def rom : Vector Word 12 :=
  #v[0x58#32, 0x38#32, 0x3C0#32, 0xD0#32, 0x120#32, 0x14#32, 0x60#32, 0x2C#32, 0x380#32, 0xF0#32, 0x1A0#32, 0x12#32]

/-- The ROM word at a 4-bit index; only 0 to 11 name one (R31). -/
def fetchRom (k : BitVec 4) : Option Word := rom[k.toNat]?

/-- The ROM index that holds a word; index 0 for a word the ROM does not hold (log 8). -/
def romIndex (w : Word) : BitVec 4 :=
  let k := rom.toList.findIdx (· == w)
  if k < 12 then BitVec.ofNat 4 k else 0#4

/-- The constants one `PERM r` uses, in order: the LAST `r` of the schedule (R112). -/
def schedule (r : Nat) : List Word := rom.toList.drop (12 - r)

end Sys2Proof.Machine
end

