-- ==== Sys2Proof/Machine/Sequencer.lean ====
section
/-! DEFINITION. What the next step does: the priority table of R117, and the function a whole PERM computes. -/

namespace Sys2Proof.Machine

/-- The one thing a step does (R117). -/
inductive Event where
  /-- A reset step (priority 1). -/
  | reset
  /-- An instruction: the ROUND of the fetched ROM word (priority 2), or the accepted command (priority 4). -/
  | run (i : Instr)
  /-- Halted, or nothing offered (priorities 3 and 5): every register keeps its value. -/
  | nothing
  /-- No rule says what happens (U4). -/
  | stuck (f : Fault)
  deriving DecidableEq, Repr

/-- The sequencer's fetch: `ROM[ridx]` is the next ROUND (R43, R60, R111); there is no ROM word at 13 to 15 (U4). -/
def fetchRound (s : State) : Event :=
  match fetchRom s.ridx with
  | some w => .run (decodeRomWord w)
  | none => .stuck .ridxUnreachable

/-- The first condition of R117 that holds. -/
def nextEvent (s : State) : Event :=
  if s.pins.rst then .reset
  else if s.busy then fetchRound s
  else if s.halted then .nothing
  else if s.pins.cmdValid then .run (decodeCommand s.pins.cmd)
  else .nothing

/-- What `PERM r` makes of the lanes: the contract of R74. No step uses it: the sequencer runs round by round. -/
def permute (r : Nat) (x : Lanes) : Lanes := applyRounds x (schedule r)

/-- For `withFetchWord`: the block made ready, the host offering this command at the next edge (log 8). -/
def State.placeCommand (s : State) (w : CommandWord) : State :=
  { s with ridx := 12#4, err := .none, inputs := { rst := false, cmdValid := true, cmd := w } :: s.inputs.tail }

/-- For `withFetchWord`: the sequencer made active at the ROM index of this word, the pins idle at the next edge
(log 8). -/
def State.placeRomWord (s : State) (w : Word) : State :=
  { s with ridx := romIndex w, inputs := idlePins :: s.inputs.tail }

end Sys2Proof.Machine
end

