-- ==== Sys2Proof/Machine/Step.lean ====
section
/-! DEFINITION. One step: one rising edge of `clk` (R117). -/

namespace Sys2Proof.Machine

/-- At an edge the pins are sampled and gone, and the event they and the state select happens. -/
def step (s : State) : Host.Outcome State Fault Refusal :=
  match nextEvent s with
  | .reset => .next s.advance.resetBlock
  | .run i => exec i s.advance
  | .nothing => .next s.advance
  | .stuck f => .fault f

/-- The state in which the very next step runs the given opcode-table word: a command offered to a ready block, or the
sequencer at that ROM word. The host cannot supply a ROM word, so a 32-bit word outside the ROM starts the sequencer at
index 0 instead (log 8). -/
def State.withFetchWord (s : State) (nbits w : Nat) : State :=
  if nbits ≤ 32 then s.placeRomWord (BitVec.ofNat 32 w) else s.placeCommand (BitVec.ofNat 38 w)

end Sys2Proof.Machine
end

