-- ==== Sys2Proof/Machine/Assembler.lean ====
section
/-! DEFINITION. The host's side: the assembler syntax of R63, the pseudo-instructions of R64, and the pins of a host
that holds each command until it is accepted (R63, R154). No step reads any of it. -/

namespace Sys2Proof.Machine

/-- A line of the assembler syntax, its numbers as written (R63). -/
inductive AsmLine where
  | rdl (i : Nat)
  | wrl (i d : Nat)
  | perm (r : Nat)
  /-- `.word w`, the way to write a faulting encoding. -/
  | word (w : Nat)
  deriving DecidableEq, Repr

/-- The command word of a line; the assembler refuses an operand out of range (R63). -/
def assemble : AsmLine → Option CommandWord
  | .rdl i => if i ≤ 11 then some (commandWord 0b00#2 (BitVec.ofNat 4 i) 0#32) else none
  | .wrl i d =>
    if i ≤ 11 ∧ d < 2 ^ 32 then some (commandWord 0b01#2 (BitVec.ofNat 4 i) (BitVec.ofNat 32 d)) else none
  | .perm r => if r ≤ 12 then some (commandWord 0b10#2 (BitVec.ofNat 4 r) 0#32) else none
  | .word w => if w < 2 ^ 38 then some (BitVec.ofNat 38 w) else none

/-- `LDST w0, ..., w11`: load the whole state (R64). -/
def ldst (ws : Lanes) : List AsmLine := (List.finRange 12).map fun i => .wrl i.val ws[i.val].toNat

/-- `ZERO` (R64). -/
def zero : List AsmLine := ldst (Vector.replicate 12 0#32)

/-- `RDST`: read the whole state (R64). -/
def rdst : List AsmLine := (List.range 12).map .rdl

/-- `APPLY r, w0, ..., w11`, the source's `apply` (R64, R76). -/
def apply (r : Nat) (ws : Lanes) : List AsmLine := ldst ws ++ [.perm r] ++ rdst

/-- The host offers a command word at one edge (R50). -/
def offer (w : CommandWord) : Pins := { rst := false, cmdValid := true, cmd := w }

/-- For how many steps the block is not ready after accepting a word that does not fault: R for `PERM R`, else none
(R156). -/
def busySteps (w : CommandWord) : Nat :=
  if opField w = 0b10#2 ∧ (idxField w).toNat ≤ 12 then (idxField w).toNat else 0

/-- The pins of a host that offers these words in order and holds each until it is accepted, when the block will be busy
for `wait` more steps (R63, R154 a). -/
def holdOffers (wait : Nat) : List CommandWord → List Pins
  | [] => []
  | w :: ws => List.replicate (wait + 1) (offer w) ++ holdOffers (busySteps w) ws

end Sys2Proof.Machine
end

