-- ==== Sys2Proof/Machine/Ports.lean ====
section
/-! DEFINITION. The output pins, combinational functions of the state and of the input pins (R50, R51, R17). No step
reads them: they are what the host sees. -/

namespace Sys2Proof.Machine

/-- A command is accepted at the next edge (R51). -/
def State.accepting (s : State) : Bool := !s.pins.rst && s.pins.cmdValid && s.cmdReady

/-- `rsp_valid` and `rsp_data`: some word exactly when an RDL of an existing lane is being accepted (R51, R71). What
`rsp_data` shows otherwise is unspecified and not modelled (U6). -/
def State.rsp (s : State) : Option Word :=
  if s.accepting then
    match decodeCommand s.pins.cmd with
    | .rdl idx => (laneIndex? idx).map s.readLane
    | .wrl _ _ => none
    | .perm _ => none
    | .reserved => none
    | .round _ => none
  else none

/-- The output pins of R50. -/
structure Outputs where
  cmdReady : Bool
  rsp : Option Word
  status : BitVec 3
  deriving DecidableEq, Repr

/-- The output pins during the step that is about to happen. -/
def State.outputs (s : State) : Outputs := { cmdReady := s.cmdReady, rsp := s.rsp, status := s.status }

end Sys2Proof.Machine
end

