-- ==== Sys2Proof/WellFormed.lean ====
section
/-! DEFINITION. Which instructions are legal: those that run to their effect and raise nothing (R58, R62, R63). -/

namespace Sys2Proof

/-- A legal instruction. A command whose operand is out of range is illegal (R58), a reserved word is no instruction
(R57, R128), and the sequencer supplies no round constant but the ROM's (R103 e). What is ill-formed still has its
meaning: the fault the spec names. -/
def Instr.wellFormed : Instr → Bool
  | .rdl idx => decide (idx.toNat ≤ 11)
  | .wrl idx _ => decide (idx.toNat ≤ 11)
  | .perm idx => decide (idx.toNat ≤ 12)
  | .reserved => false
  | .round rc => decide (rc ∈ Machine.rom.toList)

end Sys2Proof
end

