-- ==== Sys2Proof/Safety.lean ====
section
/-! DEFINITION. What the claims are stated in: the invariant of the state, steps without reset, a host that does its
duty. -/

namespace Sys2Proof.Machine

/-- `n` steps, stopping at the first that answers no next state. -/
def run (n : Nat) (s : State) : Host.Outcome State Fault Refusal := Host.Core.run Sys2Proof.core n s

/-- The invariants of R24 that are not already in the types: `ridx` is at most 12, and a halted block is idle. -/
abbrev State.Inv (s : State) : Prop := s.ridx.toNat ≤ 12 ∧ (s.err ≠ .none → s.ridx = 12#4)

/-- The pins assert no reset at the next `n` edges. -/
abbrev State.NoReset (n : Nat) (s : State) : Prop := ∀ p ∈ s.inputs.take n, p.rst = false

/-- What the host must never do (R154 d): offer a word that decodes to a fault. -/
abbrev Pins.Dutiful (p : Pins) : Prop := p.cmdValid = true → (decodeCommand p.cmd).wellFormed = true

/-- Two states that differ in nothing but their lanes and the answers read from them. -/
abbrev State.SameControl (s t : State) : Prop :=
  s.ridx = t.ridx ∧ s.err = t.err ∧ s.inputs = t.inputs ∧ s.draws = t.draws ∧ s.responses.length = t.responses.length

end Sys2Proof.Machine
end

