-- ==== Sys2Proof/Certificates/Slice0/Obligations.lean ====
section
/-! DEFINITION. The statements for the provers. Each docstring names the rules it formalises; what rests on a choice of
the model says so and names the log entry. -/

open Sys2Proof Sys2Proof.Machine

/-! ### Encoding -/

/-- R54, R55, R56: the match and mask of the three commands select them, with their fields; the canonical form of RDL
and PERM has `data = 0`; the examples of the three rules. -/
def Obligations.CommandEncodingsFollowMatchAndMask : Prop :=
  (∀ w : CommandWord,
    (w &&& 0x3000000000#38 = 0x0000000000#38 ↔ decodeCommand w = .rdl (w.extractLsb' 32 4)) ∧
    (w &&& 0x3000000000#38 = 0x1000000000#38 ↔ decodeCommand w = .wrl (w.extractLsb' 32 4) (w.extractLsb' 0 32)) ∧
    (w &&& 0x3000000000#38 = 0x2000000000#38 ↔ decodeCommand w = .perm (w.extractLsb' 32 4))) ∧
  (∀ idx : BitVec 4, ∃ c p : CommandWord,
    encode (.rdl idx) = .command c ∧ c.extractLsb' 0 32 = 0#32 ∧
    encode (.perm idx) = .command p ∧ p.extractLsb' 0 32 = 0#32) ∧
  encode (.rdl 11#4) = .command 0x0B00000000#38 ∧
  encode (.wrl 0#4 0x00000001#32) = .command 0x1000000001#38 ∧
  encode (.wrl 11#4 0xFFFFFFFF#32) = .command 0x1BFFFFFFFF#38 ∧
  encode (.perm 12#4) = .command 0x2C00000000#38 ∧
  encode (.perm 6#4) = .command 0x2600000000#38 ∧
  encode (.perm 0#4) = .command 0x2000000000#38

/-- R53, R59, R61: a word put together from its fields decodes by `op` alone; the `data` of RDL and PERM and every other
bit of a reserved word are ignored. -/
def Obligations.IgnoredBitsDoNotChangeTheInstruction : Prop :=
  ∀ (idx : BitVec 4) (data : Word),
    decodeCommand (commandWord 0b00#2 idx data) = .rdl idx ∧
    decodeCommand (commandWord 0b01#2 idx data) = .wrl idx data ∧
    decodeCommand (commandWord 0b10#2 idx data) = .perm idx ∧
    decodeCommand (commandWord 0b11#2 idx data) = .reserved

/-- R52 to R57, R60: decoding an encoded instruction gives it back, for every instruction and every operand, as a word
and as an opcode-table number. -/
def Obligations.DecodeInvertsEncode : Prop :=
  ∀ i : Instr, decode (encode i) = i ∧ decodeTableWord (encode i).width (encode i).toNat = some i

/-- R54, R56, R59 for RDL, WRL and PERM: encoding a decoded command word gives the word back exactly when its ignored
bits are zero. For the reserved op the spec gives no canonical form: that its word is given back exactly when `idx` and
`data` are 0 is the model's choice, the encoder's zeros of log 9 (DESIGN CHOICE). -/
def Obligations.EncodeInvertsDecodeOnCanonicalWords : Prop :=
  ∀ w : CommandWord, encode (decodeCommand w) = .command w ↔
    (opField w = 0b01#2 ∨ (dataField w = 0#32 ∧ (opField w = 0b11#2 → idxField w = 0#4)))

/-- Words written out from 95_test_vectors.md V11 to V13 (rules R52 to R60 applied by hand). -/
def Obligations.WrittenOutWordsDecode : Prop :=
  decodeTableWord 40 0x0000000000 = some (.rdl 0#4) ∧
  decodeTableWord 40 0x0412345678 = some (.rdl 4#4) ∧
  decodeTableWord 40 0x13DEADBEEF = some (.wrl 3#4 0xDEADBEEF#32) ∧
  decodeTableWord 40 0x1C00000001 = some (.wrl 12#4 1#32) ∧
  decodeTableWord 40 0x2CFFFFFFFF = some (.perm 12#4) ∧
  decodeTableWord 40 0x2F12345678 = some (.perm 15#4) ∧
  decodeTableWord 40 0x3FFFFFFFFF = some .reserved ∧
  decodeTableWord 32 0x00000012 = some (.round 0x12#32)

/-- R62, R125, R132 c: every one of the 2^38 words, offered to a ready block, has exactly the one outcome that its `op`
and `idx` give, read here by arithmetic on the word as a number. -/
def Obligations.EveryCommandWordHasItsOneOutcome : Prop :=
  ∀ (w : CommandWord) (s : State), s.cmdReady = true →
    exec (decodeCommand w) s = .next (
      if w.toNat / 2 ^ 36 = 0 then
        (if h : w.toNat / 2 ^ 32 % 16 < 12 then { s with responses := s.responses ++ [s.lanes[w.toNat / 2 ^ 32 % 16]] }
         else { s with err := .laneIndexRange })
      else if w.toNat / 2 ^ 36 = 1 then
        (if h : w.toNat / 2 ^ 32 % 16 < 12 then
           { s with lanes := s.lanes.set (w.toNat / 2 ^ 32 % 16) (BitVec.ofNat 32 (w.toNat % 2 ^ 32)) }
         else { s with err := .laneIndexRange })
      else if w.toNat / 2 ^ 36 = 2 then
        (if w.toNat / 2 ^ 32 % 16 ≤ 12 then { s with ridx := BitVec.ofNat 4 (12 - w.toNat / 2 ^ 32 % 16) }
         else { s with err := .roundCountRange })
      else { s with err := .reservedOp })

/-- R63: the assembler makes of a mnemonic line the canonical word of a legal instruction, and refuses exactly the
operands out of range. -/
def Obligations.AssemblerWritesCanonicalLegalWords : Prop :=
  (∀ i : Nat, (∃ w, assemble (.rdl i) = some w) ↔ i ≤ 11) ∧
  (∀ i d : Nat, (∃ w, assemble (.wrl i d) = some w) ↔ i ≤ 11 ∧ d < 2 ^ 32) ∧
  (∀ r : Nat, (∃ w, assemble (.perm r) = some w) ↔ r ≤ 12) ∧
  (∀ (i : Nat) (w : CommandWord), assemble (.rdl i) = some w →
    decodeCommand w = .rdl (BitVec.ofNat 4 i) ∧ w.toNat = i * 2 ^ 32 ∧ (decodeCommand w).wellFormed = true) ∧
  (∀ (i d : Nat) (w : CommandWord), assemble (.wrl i d) = some w →
    decodeCommand w = .wrl (BitVec.ofNat 4 i) (BitVec.ofNat 32 d) ∧ w.toNat = 2 ^ 36 + i * 2 ^ 32 + d ∧
      (decodeCommand w).wellFormed = true) ∧
  (∀ (r : Nat) (w : CommandWord), assemble (.perm r) = some w →
    decodeCommand w = .perm (BitVec.ofNat 4 r) ∧ w.toNat = 2 * 2 ^ 36 + r * 2 ^ 32 ∧
      (decodeCommand w).wellFormed = true) ∧
  (∀ w : Nat, w < 2 ^ 38 → assemble (.word w) = some (BitVec.ofNat 38 w))

/-! ### The commands -/

/-- R71: RDL of an existing lane completes; it answers the lane and writes no register. -/
def Obligations.RdlAnswersTheLane : Prop :=
  ∀ (s : State) (idx : BitVec 4) (h : idx.toNat < 12), s.cmdReady = true →
    exec (.rdl idx) s = .next { s with responses := s.responses ++ [s.lanes[idx.toNat]] }

/-- R72: WRL of an existing lane completes; that lane reads as the data, every other lane as before, and nothing else
changes. -/
def Obligations.WrlWritesExactlyOneLane : Prop :=
  ∀ (s : State) (idx : BitVec 4) (data : Word), idx.toNat < 12 → s.cmdReady = true →
    ∃ t, exec (.wrl idx data) s = .next t ∧
      (∀ j : Fin 12, t.lanes[j.val] = if j.val = idx.toNat then data else s.lanes[j.val]) ∧
      t.ridx = s.ridx ∧ t.err = s.err ∧ t.responses = s.responses ∧ t.inputs = s.inputs ∧ t.draws = s.draws

/-- R73: PERM R with R at most 12 completes; it writes `ridx` only, with `12 - R` computed without wrapping. -/
def Obligations.PermLoadsTwelveMinusR : Prop :=
  ∀ (s : State) (idx : BitVec 4), idx.toNat ≤ 12 → s.cmdReady = true →
    ∃ t, exec (.perm idx) s = .next t ∧ t.ridx.toNat = 12 - idx.toNat ∧ t.lanes = s.lanes ∧ t.err = s.err ∧
      t.responses = s.responses ∧ t.inputs = s.inputs ∧ t.draws = s.draws

/-- R75: PERM 0 is accepted, changes nothing for any lanes, and the block is ready at the very next step. -/
def Obligations.PermZeroChangesNothing : Prop :=
  (∀ (s : State), s.cmdReady = true →
    exec (.perm 0#4) s = .next s ∧
    ∀ data : Word, s.pins = { rst := false, cmdValid := true, cmd := commandWord 0b10#2 0#4 data } →
      ∃ t, step s = .next t ∧ t.lanes = s.lanes ∧ t.ridx = 12#4 ∧ t.err = s.err ∧ t.cmdReady = true) ∧
  ∀ x : Lanes, permute 0 x = x

/-- R127: RDL and WRL with an index above 11 set ERR to code 2 and do nothing else: no lane, no answer; the block halts. -/
def Obligations.LaneIndexAboveElevenFaults : Prop :=
  ∀ (s : State) (idx : BitVec 4) (data : Word), 11 < idx.toNat → s.cmdReady = true →
    ∃ t, exec (.rdl idx) s = .next t ∧ exec (.wrl idx data) s = .next t ∧ t = { s with err := .laneIndexRange } ∧
      t.err.code = 2#2 ∧ t.halted = true ∧ t.cmdReady = false

/-- R126: PERM with a round count above 12 sets ERR to code 1 and does nothing else: no round, `ridx` stays 12; the
block halts. -/
def Obligations.RoundCountAboveTwelveFaults : Prop :=
  ∀ (s : State) (idx : BitVec 4), 12 < idx.toNat → s.cmdReady = true →
    ∃ t, exec (.perm idx) s = .next t ∧ t = { s with err := .roundCountRange } ∧ t.ridx = 12#4 ∧
      t.err.code = 1#2 ∧ t.halted = true ∧ t.cmdReady = false

/-- R128: a word with `op = 0b11`, whatever its other bits, sets ERR to code 3 at the step it is accepted; the block
halts. -/
def Obligations.ReservedOpFaults : Prop :=
  ∀ (s : State) (idx : BitVec 4) (data : Word), s.cmdReady = true →
    exec (decodeCommand (commandWord 0b11#2 idx data)) s = .next { s with err := .reservedOp } ∧
    exec .reserved s = .next { s with err := .reservedOp } ∧
    (s.pins = { rst := false, cmdValid := true, cmd := commandWord 0b11#2 idx data } →
      ∃ t, step s = .next t ∧ t.err.code = 3#2 ∧ t.lanes = s.lanes ∧ t.ridx = 12#4 ∧ t.responses = s.responses ∧
        t.halted = true ∧ t.cmdReady = false)

/-- R70, R131: a command that a busy or halted block is offered has no effect of any kind. -/
def Obligations.UnacceptedCommandLeavesNoTrace : Prop :=
  ∀ (s : State) (w : CommandWord), s.cmdReady = false → exec (decodeCommand w) s = .next s

/-- R37: the same RDL twice gives the same answer twice; the same WRL twice leaves the state one leaves. -/
def Obligations.ReadsAndWritesAreIdempotent : Prop :=
  ∀ (s t : State) (idx : BitVec 4) (data : Word), idx.toNat < 12 → s.cmdReady = true →
    (exec (.wrl idx data) s = .next t → exec (.wrl idx data) t = .next t) ∧
    (exec (.rdl idx) s = .next t →
      ∃ v, t.responses = s.responses ++ [v] ∧ t.lanes = s.lanes ∧
        exec (.rdl idx) t = .next { t with responses := s.responses ++ [v, v] })

/-- R40: an RDL right after a WRL of the same lane answers the data written, and of another lane what that lane held. -/
def Obligations.ReadAfterWriteAnswersTheData : Prop :=
  ∀ (s t : State) (i j : BitVec 4) (data : Word) (_ : i.toNat < 12) (hj : j.toNat < 12), s.cmdReady = true →
    exec (.wrl i data) s = .next t →
    exec (.rdl j) t = .next { t with responses := s.responses ++ [if j = i then data else s.lanes[j.toNat]] }

/-! ### The round -/

/-- R111, R90: ROUND completes for every lane contents, every constant and every `ridx` from 0 to 11; it replaces the
lanes, adds one to `ridx` without wrapping, and changes nothing else. -/
def Obligations.RoundReplacesLanesAndCounts : Prop :=
  ∀ (s : State) (rc : Word), s.ridx.toNat ≤ 11 →
    ∃ t, exec (.round rc) s = .next t ∧ t.lanes = roundFn s.lanes rc ∧ t.ridx.toNat = s.ridx.toNat + 1 ∧
      t.err = s.err ∧ t.responses = s.responses ∧ t.inputs = s.inputs ∧ t.draws = s.draws

/-- R91 to R99: the round function is the spec's listing, lane by lane, with the library's rotation. -/
def Obligations.RoundIsTheSevenSteps : Prop :=
  ∀ (x : Lanes) (rc : Word),
    let p0 := x[0] ^^^ x[4] ^^^ x[8]
    let p1 := x[1] ^^^ x[5] ^^^ x[9]
    let p2 := x[2] ^^^ x[6] ^^^ x[10]
    let p3 := x[3] ^^^ x[7] ^^^ x[11]
    let e0 := p3.rotateLeft 5 ^^^ p3.rotateLeft 14
    let e1 := p0.rotateLeft 5 ^^^ p0.rotateLeft 14
    let e2 := p1.rotateLeft 5 ^^^ p1.rotateLeft 14
    let e3 := p2.rotateLeft 5 ^^^ p2.rotateLeft 14
    let t0 := e0 ^^^ x[0] ^^^ rc
    let t1 := e1 ^^^ x[1]
    let t2 := e2 ^^^ x[2]
    let t3 := e3 ^^^ x[3]
    let t4 := e3 ^^^ x[7]
    let t5 := e0 ^^^ x[4]
    let t6 := e1 ^^^ x[5]
    let t7 := e2 ^^^ x[6]
    let t8 := (e0 ^^^ x[8]).rotateLeft 11
    let t9 := (e1 ^^^ x[9]).rotateLeft 11
    let t10 := (e2 ^^^ x[10]).rotateLeft 11
    let t11 := (e3 ^^^ x[11]).rotateLeft 11
    roundFn x rc =
      #v[(~~~t4 &&& t8) ^^^ t0, (~~~t5 &&& t9) ^^^ t1, (~~~t6 &&& t10) ^^^ t2, (~~~t7 &&& t11) ^^^ t3,
         ((~~~t8 &&& t0) ^^^ t4).rotateLeft 1, ((~~~t9 &&& t1) ^^^ t5).rotateLeft 1,
         ((~~~t10 &&& t2) ^^^ t6).rotateLeft 1, ((~~~t11 &&& t3) ^^^ t7).rotateLeft 1,
         ((~~~t2 &&& t6) ^^^ t10).rotateLeft 8, ((~~~t3 &&& t7) ^^^ t11).rotateLeft 8,
         ((~~~t0 &&& t4) ^^^ t8).rotateLeft 8, ((~~~t1 &&& t5) ^^^ t9).rotateLeft 8]

/-- R7: for `0 < n < 32`, rotation is the spec's formula on numbers, bit `j` goes to bit `(j + n) mod 32`, and the two
examples hold. -/
def Obligations.RotlMovesEveryBit : Prop :=
  (∀ (x : Word) (n : Nat), 0 < n → n < 32 →
    (rotl x n).toNat = (x.toNat * 2 ^ n ||| x.toNat / 2 ^ (32 - n)) % 2 ^ 32 ∧
    ∀ j : Nat, j < 32 → (rotl x n).getLsbD ((j + n) % 32) = x.getLsbD j) ∧
  rotl 0x80000001#32 5 = 0x00000030#32 ∧ rotl 0x12345678#32 8 = 0x34567812#32

/-- R101: bit `k` of `(¬x & y) ⊕ z` follows the rule's table and depends on bit `k` of x, y and z only. -/
def Obligations.ChiFollowsItsTruthTable : Prop :=
  ∀ (x y z : Word) (k : Nat), k < 32 →
    (chi x y z).getLsbD k =
      match x.getLsbD k, y.getLsbD k, z.getLsbD k with
      | false, false, false => false
      | false, false, true => true
      | false, true, false => true
      | false, true, true => false
      | true, false, false => false
      | true, false, true => true
      | true, true, false => false
      | true, true, true => true

/-- R92: the expansion is linear over XOR. -/
def Obligations.ExpansionIsLinear : Prop :=
  ∀ (p q : Fin 4 → Word) (i : Fin 4), expansion (fun k => p k ^^^ q k) i = expansion p i ^^^ expansion q i

/-- R103 b, c, d: the zero state with a constant, and the parity and expansion of the all-ones state. -/
def Obligations.RoundCornerCases : Prop :=
  (∀ rc : Word, roundFn (Vector.replicate 12 0#32) rc =
    #v[rc, 0#32, 0#32, 0#32, rc.rotateLeft 1, 0#32, 0#32, 0#32, 0#32, 0#32, 0#32, 0#32]) ∧
  roundFn (Vector.replicate 12 0#32) 0#32 = Vector.replicate 12 0#32 ∧
  ∀ i : Fin 4, parity (Vector.replicate 12 0xFFFFFFFF#32) i = 0xFFFFFFFF#32 ∧
    expansion (parity (Vector.replicate 12 0xFFFFFFFF#32)) i = 0#32

/-- R104: the worked example, its parity, expansion and result. -/
def Obligations.WorkedRoundExample : Prop :=
  let x : Lanes := #v[1#32, 0#32, 0#32, 0#32, 0#32, 0#32, 0#32, 0#32, 0#32, 0#32, 0#32, 0#32]
  parity x 0 = 1#32 ∧ parity x 1 = 0#32 ∧ parity x 2 = 0#32 ∧ parity x 3 = 0#32 ∧
  expansion (parity x) 0 = 0#32 ∧ expansion (parity x) 1 = 0x00004020#32 ∧
  expansion (parity x) 2 = 0#32 ∧ expansion (parity x) 3 = 0#32 ∧
  tA x 0#32 0 = 1#32 ∧ tA x 0#32 1 = 0x00004020#32 ∧ tA x 0#32 2 = 0#32 ∧ tA x 0#32 3 = 0#32 ∧
  tB x 0 = 0#32 ∧ tB x 1 = 0#32 ∧ tB x 2 = 0x00004020#32 ∧ tB x 3 = 0#32 ∧
  tC x 0 = 0#32 ∧ tC x 1 = 0x02010000#32 ∧ tC x 2 = 0#32 ∧ tC x 3 = 0#32 ∧
  roundFn x 0#32 =
    #v[0x00000001#32, 0x02014020#32, 0#32, 0#32, 0x00000002#32, 0x00008040#32, 0x00008040#32, 0#32,
       0x00402000#32, 0#32, 0#32, 0x01000002#32]

/-! ### The constants and the whole permutation -/

/-- R18: the twelve constants in order; bits 31 to 10 and bit 0 of each are 0. -/
def Obligations.RomHoldsTheSchedule : Prop :=
  (∀ k : BitVec 4, fetchRom k =
    [0x00000058#32, 0x00000038#32, 0x000003C0#32, 0x000000D0#32, 0x00000120#32, 0x00000014#32, 0x00000060#32,
     0x0000002C#32, 0x00000380#32, 0x000000F0#32, 0x000001A0#32, 0x00000012#32][k.toNat]?) ∧
  ∀ (k : BitVec 4) (w : Word), fetchRom k = some w → w &&& 0xFFFFFC01#32 = 0#32

/-- R112: an operation of R rounds has R constants and its k-th is `ROM[12 - R + k]`: the last R, not the first R. -/
def Obligations.ScheduleIsTheLastR : Prop :=
  ∀ r : Nat, r ≤ 12 → (schedule r).length = r ∧
    ∀ k : Nat, k < r → (schedule r)[k]? = fetchRom (BitVec.ofNat 4 (12 - r + k)) ∧ (schedule r)[k]? ≠ none

/-- R73's example and 95_test_vectors.md V1, V2: the source's two known-answer vectors on the all-zero state, and R112's
point that the first six constants give another state. -/
def Obligations.KnownAnswers : Prop :=
  permute 12 (Vector.replicate 12 0#32) =
    #v[0x89D5D88D#32, 0xA963FCBF#32, 0x1B232D19#32, 0xFFA5A014#32, 0x36B18106#32, 0xAFC7C1FE#32,
       0xAEE57CBE#32, 0xA77540BD#32, 0x2E86E870#32, 0xFEF5B7C9#32, 0x8B4FADF2#32, 0x5E4F4062#32] ∧
  permute 6 (Vector.replicate 12 0#32) =
    #v[0x28C9CEA3#32, 0xAD204F60#32, 0x2EC3D0D6#32, 0xF050C7C5#32, 0x08DC1225#32, 0x61992304#32,
       0x9E0D402D#32, 0x42D59B9B#32, 0x1E6114FC#32, 0x186EB697#32, 0x35DBBC7F#32, 0xA1F9104E#32] ∧
  applyRounds (Vector.replicate 12 0#32) ((schedule 12).take 6) ≠ permute 6 (Vector.replicate 12 0#32)

/-- R119: a shorter operation is the tail of a longer one, not its head. -/
def Obligations.ShorterOperationIsTheTail : Prop :=
  ∀ (r1 r2 : Nat) (x : Lanes), r1 ≤ r2 → r2 ≤ 12 →
    permute r2 x = permute r1 (applyRounds x ((schedule r2).take (r2 - r1)))

/-- R77: two operations in a row are not one of the summed round count. -/
def Obligations.TwoOperationsAreNotOneLonger : Prop :=
  permute 6 (permute 6 (Vector.replicate 12 0#32)) ≠ permute 12 (Vector.replicate 12 0#32)

/-! ### The step -/

/-- R117, R70, R111: when a command is offered to a ready block, or the sequencer is active, and no reset comes, the step
runs exactly the decoded word, with the edge's pin values gone and nothing else around it. -/
def Obligations.StepRunsTheDecodedInstruction : Prop :=
  (∀ s : State, s.pins.rst = false → s.cmdReady = true → s.pins.cmdValid = true →
    step s = exec (decode (.command s.pins.cmd)) { s with inputs := s.inputs.tail }) ∧
  (∀ (s : State) (w : Word), s.pins.rst = false → fetchRom s.ridx = some w →
    step s = exec (decode (.romWord w)) { s with inputs := s.inputs.tail })

/-- R111: one sequencer step; the lanes and `ridx` of before the step give those after, ERR is unchanged and nothing is
answered. -/
def Obligations.SequencerStepRunsOneRound : Prop :=
  ∀ (s : State) (h : s.ridx.toNat ≤ 11), s.pins.rst = false →
    ∃ t, step s = .next t ∧ t.lanes = roundFn s.lanes (rom[s.ridx.toNat]) ∧ t.ridx.toNat = s.ridx.toNat + 1 ∧
      t.err = s.err ∧ t.responses = s.responses ∧ t.draws = s.draws ∧ t.inputs = s.inputs.tail

/-- R117: the priority table. In a state that meets the invariants of R24, the first condition that holds decides; where
"nothing" happens every register keeps its value. -/
def Obligations.StepFollowsThePriorityTable : Prop :=
  ∀ s : State, s.Inv →
    (s.pins.rst = true → ∃ t, step s = .next t ∧ t.ridx = 12#4 ∧ t.err = .none) ∧
    (s.pins.rst = false → s.ridx ≠ 12#4 → ∃ w, fetchRom s.ridx = some w ∧
      step s = .next { s with lanes := roundFn s.lanes w, ridx := s.ridx + 1#4, inputs := s.inputs.tail }) ∧
    (s.pins.rst = false → s.ridx = 12#4 → s.err ≠ .none → step s = .next { s with inputs := s.inputs.tail }) ∧
    (s.pins.rst = false → s.ridx = 12#4 → s.err = .none → s.pins.cmdValid = true →
      s.accepting = true ∧ step s = exec (decodeCommand s.pins.cmd) { s with inputs := s.inputs.tail }) ∧
    (s.pins.rst = false → s.ridx = 12#4 → s.err = .none → s.pins.cmdValid = false →
      step s = .next { s with inputs := s.inputs.tail })

/-- R24: the invariants hold after reset, after every reset step, and are kept by every step, from every state that
meets them. -/
def Obligations.EveryStepKeepsTheInvariants : Prop :=
  State.reset.Inv ∧
  (∀ s t : State, s.pins.rst = true → step s = .next t → t.Inv) ∧
  (∀ s t : State, s.Inv → step s = .next t → t.Inv)

/-- R23, R24: the state right after reset meets the invariants. -/
def Obligations.ResetMeetsTheInvariants : Prop := State.reset.Inv

/-- R133, R139: from a state that meets the invariants every step answers a next state: nothing stops the machine. -/
def Obligations.NoStepStopsTheMachine : Prop :=
  ∀ s : State, s.Inv → ∃ t, step s = .next t

/-- The model's reading of U4 (log 4): a step stops exactly when `ridx` is 13, 14 or 15 and no reset comes; ROUND at 12,
where the sequencer is inactive (R110), does nothing. No step and no instruction is refused. -/
def Obligations.OnlyUnreachableIndicesAreStuck : Prop :=
  (∀ (s : State) (f : Fault), step s = .fault f ↔ s.pins.rst = false ∧ 12 < s.ridx.toNat) ∧
  (∀ (s : State) (rc : Word), s.ridx = 12#4 → exec (.round rc) s = .next s) ∧
  (∀ (s : State) (rc : Word), 12 < s.ridx.toNat → exec (.round rc) s = .fault .ridxUnreachable) ∧
  (∀ (i : Instr) (s : State) (r : Refusal), exec i s ≠ .refused r ∧ step s ≠ .refused r)

/-! ### Running a permutation -/

/-- R74, R113: an accepted PERM R, and then R steps without reset, whatever is offered meanwhile, leave exactly `permute
R` of the lanes at acceptance; `ridx` is 12 again and nothing else has changed. -/
def Obligations.PermComputesThePermutation : Prop :=
  ∀ (s : State) (idx : BitVec 4) (data : Word) (rest : List Pins), idx.toNat ≤ 12 → s.cmdReady = true →
    s.inputs = { rst := false, cmdValid := true, cmd := commandWord 0b10#2 idx data } :: rest →
    (∀ p ∈ rest.take idx.toNat, p.rst = false) →
    run (idx.toNat + 1) s =
      .next { s with lanes := permute idx.toNat s.lanes, inputs := rest.drop idx.toNat }

/-- R112, R116: after the acceptance and k of the R rounds, `ridx` is `12 - R + k`, the first k constants of the schedule
have been used, and the block is ready exactly when k = R. -/
def Obligations.PermIsBusyForExactlyRSteps : Prop :=
  ∀ (s : State) (idx : BitVec 4) (data : Word) (rest : List Pins) (k : Nat), idx.toNat ≤ 12 → k ≤ idx.toNat →
    s.cmdReady = true →
    s.inputs = { rst := false, cmdValid := true, cmd := commandWord 0b10#2 idx data } :: rest →
    (∀ p ∈ rest.take k, p.rst = false) →
    ∃ t, run (k + 1) s = .next t ∧ t.ridx.toNat = 12 - idx.toNat + k ∧
      t.lanes = applyRounds s.lanes ((schedule idx.toNat).take k) ∧ t.cmdReady = decide (k = idx.toNat) ∧
      t.status = (if k = idx.toNat then 0b000#3 else 0b001#3)

/-- R114, R158: from every state that meets the invariants, without reset, the sequencer is inactive after exactly
`12 - ridx` steps, at most 12, whatever the host offers, and no sooner. -/
def Obligations.SequencerStopsWithinTwelveSteps : Prop :=
  ∀ s : State, s.Inv → s.NoReset (12 - s.ridx.toNat) →
    (∃ t, run (12 - s.ridx.toNat) s = .next t ∧ t.ridx = 12#4 ∧ t.err = s.err ∧ t.responses = s.responses) ∧
    ∀ k : Nat, k < 12 - s.ridx.toNat → ∃ t, run k s = .next t ∧ t.busy = true

/-- R76, R64: APPLY, held on the port by a host that does its duty, answers exactly the twelve lanes of `permute r` on
the loaded words, whatever the lanes held before; it takes 25 + r steps (R156). -/
def Obligations.ApplyAnswersThePermutation : Prop :=
  ∀ (s : State) (r : Nat) (ws : Lanes) (words : List CommandWord) (rest : List Pins), r ≤ 12 → s.cmdReady = true →
    (apply r ws).mapM assemble = some words → s.inputs = holdOffers 0 words ++ rest →
    run (25 + r) s =
      .next { s with lanes := permute r ws, responses := s.responses ++ (permute r ws).toList, inputs := rest }

/-- R64: LDST loads the whole state. -/
def Obligations.LdstLoadsTheState : Prop :=
  ∀ (s : State) (ws : Lanes) (words : List CommandWord) (rest : List Pins), s.cmdReady = true →
    (ldst ws).mapM assemble = some words → s.inputs = holdOffers 0 words ++ rest →
    run 12 s = .next { s with lanes := ws, inputs := rest }

/-- R64: RDST answers the whole state in lane order and changes no register. -/
def Obligations.RdstAnswersTheState : Prop :=
  ∀ (s : State) (words : List CommandWord) (rest : List Pins), s.cmdReady = true →
    rdst.mapM assemble = some words → s.inputs = holdOffers 0 words ++ rest →
    run 12 s = .next { s with responses := s.responses ++ s.lanes.toList, inputs := rest }

/-- R105, R115, R157: control does not depend on the lanes. Two states that differ in their lanes and past answers only
go on in step for ever: same `ridx`, same ERR, same `cmd_ready`, STATUS and `rsp_valid` at every step. -/
def Obligations.ControlIgnoresTheLanes : Prop :=
  ∀ (n : Nat) (s s' t : State), s.SameControl s' → run n s = .next t →
    ∃ t', run n s' = .next t' ∧ t.SameControl t' ∧ t.cmdReady = t'.cmdReady ∧ t.status = t'.status ∧
      t.rsp.isSome = t'.rsp.isSome

/-! ### Faults and the host's side -/

/-- R129, R130 for the three faults of R125: a faulting word that is accepted sets ERR to its code and answers nothing,
and then nothing changes at any number of further steps without reset, whatever is offered. -/
def Obligations.FaultingCommandHaltsForGood : Prop :=
  ∀ (s : State) (op : BitVec 2) (idx : BitVec 4) (data : Word) (c : ErrCode) (rest : List Pins) (n : Nat),
    s.cmdReady = true →
    ((op = 0b10#2 ∧ 12 < idx.toNat ∧ c = .roundCountRange) ∨
      ((op = 0b00#2 ∨ op = 0b01#2) ∧ 11 < idx.toNat ∧ c = .laneIndexRange) ∨ (op = 0b11#2 ∧ c = .reservedOp)) →
    s.inputs = { rst := false, cmdValid := true, cmd := commandWord op idx data } :: rest →
    (∀ p ∈ rest.take n, p.rst = false) →
    s.rsp = none ∧ run (n + 1) s = .next { s with err := c, inputs := rest.drop n }

/-- R130, R135: while halted no state changes at any step without reset, and no command is ever accepted. -/
def Obligations.HaltedBlockStaysHalted : Prop :=
  ∀ (n : Nat) (s : State), s.Inv → s.err ≠ .none → s.NoReset n →
    s.cmdReady = false ∧ s.accepting = false ∧ s.busy = false ∧ s.status.extractLsb' 1 2 = s.err.code ∧
      run n s = .next { s with inputs := s.inputs.drop n }

/-- R16, R125, R135: ERR changes only in two ways: a reset step clears it, or an accepted faulting word sets it from
None to its code. So a code once set keeps its value until reset. -/
def Obligations.ErrChangesOnlyByFaultOrReset : Prop :=
  ∀ s t : State, step s = .next t → t.err ≠ s.err →
    (s.pins.rst = true ∧ t.err = .none) ∨
    (s.accepting = true ∧ s.err = .none ∧ (decodeCommand s.pins.cmd).wellFormed = false)

/-- R14: `ridx` changes only by a reset step, by an accepted legal PERM, and by a ROUND, which adds one. -/
def Obligations.RidxChangesOnlyByPermRoundOrReset : Prop :=
  ∀ s t : State, step s = .next t → t.ridx ≠ s.ridx →
    (s.pins.rst = true ∧ t.ridx = 12#4) ∨
    (s.accepting = true ∧ ∃ idx, decodeCommand s.pins.cmd = .perm idx ∧ idx.toNat ≤ 12 ∧ t.ridx.toNat = 12 - idx.toNat) ∨
    (s.pins.rst = false ∧ s.ridx.toNat ≤ 11 ∧ t.ridx.toNat = s.ridx.toNat + 1)

/-- R13: a lane changes only by a reset step, by a ROUND, and by an accepted WRL of that very lane. -/
def Obligations.LanesChangeOnlyByWrlRoundOrReset : Prop :=
  ∀ (s t : State) (j : Fin 12), step s = .next t → t.lanes[j.val] ≠ s.lanes[j.val] →
    s.pins.rst = true ∨ (s.pins.rst = false ∧ s.ridx.toNat ≤ 11) ∨
    (s.accepting = true ∧ ∃ idx data, decodeCommand s.pins.cmd = .wrl idx data ∧ idx.toNat = j.val ∧
      t.lanes[j.val] = data)

/-- R51, R71: the answers a step adds are exactly what the response pins show during it: one word when an RDL of an
existing lane is accepted, none at every other step. -/
def Obligations.AnswersAreWhatTheResponsePinsShow : Prop :=
  (∀ s t : State, step s = .next t → t.responses = s.responses ++ s.rsp.toList) ∧
  (∀ (s : State) (v : Word), s.rsp = some v ↔
    s.pins.rst = false ∧ s.pins.cmdValid = true ∧ s.ridx = 12#4 ∧ s.err = .none ∧
      ∃ idx, decodeCommand s.pins.cmd = .rdl idx ∧ s.lanes[idx.toNat]? = some v)

/-- R51, R131: while the block is not ready, what is offered, and whether, makes no difference to the step. -/
def Obligations.OfferIsIgnoredWhileNotReady : Prop :=
  ∀ (s : State) (v v' : Bool) (w w' : CommandWord) (rest : List Pins), s.cmdReady = false →
    step { s with inputs := { rst := false, cmdValid := v, cmd := w } :: rest } =
      step { s with inputs := { rst := false, cmdValid := v', cmd := w' } :: rest }

/-- R133, R154 d: a host that offers no faulting word never halts the block: from an unhalted state that meets the
invariants, every run goes on and ERR stays None. -/
def Obligations.DutifulHostNeverHaltsTheBlock : Prop :=
  ∀ (n : Nat) (s : State), s.Inv → s.err = .none → (∀ p ∈ s.inputs.take n, p.Dutiful) →
    ∃ t, run n s = .next t ∧ t.Inv ∧ t.err = .none

/-! ### Reset and status -/

/-- R151, R150: a reset step, in any state, makes the block idle and clears the fault; it answers nothing, and after it
`cmd_ready` is 1 and STATUS is 0. Nothing is said of the lanes. -/
def Obligations.ResetStepMakesTheBlockReady : Prop :=
  ∀ s : State, s.pins.rst = true →
    s.rsp = none ∧
    ∃ t, step s = .next t ∧ t.ridx = 12#4 ∧ t.err = .none ∧ t.responses = s.responses ∧ t.cmdReady = true ∧
      t.status = 0b000#3 ∧ t.inputs = s.inputs.tail ∧ (t.pins.cmdValid = false → t.rsp = none)

/-- R152: a reset step in the middle of a permutation leaves lanes that do not depend on the lanes before it; that they
are the model's next draws is the model's choice (log 3). -/
def Obligations.ResetForgetsTheLanes : Prop :=
  ∀ (s t : State) (x : Lanes), s.pins.rst = true → step s = .next t → step { s with lanes := x } = .next t

/-- R23: right after reset the block is idle, unhalted, ready, and STATUS is 0. The last clause, no response, is R151's
`rsp_valid = 0` after a reset step; in `State.reset` it holds because nothing is offered there yet, which is the model's
choice (the empty `inputs` of log 1, DESIGN CHOICE), not R23's. -/
def Obligations.ResetValues : Prop :=
  State.reset.ridx = 12#4 ∧ State.reset.err = .none ∧ State.reset.err.code = 0#2 ∧ State.reset.busy = false ∧
  State.reset.status = 0b000#3 ∧ State.reset.cmdReady = true ∧ State.reset.rsp = none

/-- R15, R16, R17: `busy` is `ridx ≠ 12`, `status[0]` is 1 exactly when `ridx ≠ 12`, `status[2:1]` is the ERR code, and the four codes are 0 to
3. -/
def Obligations.StatusShowsBusyAndErr : Prop :=
  (∀ s : State, (s.busy = true ↔ s.ridx ≠ 12#4) ∧ (s.status.getLsbD 0 = true ↔ s.ridx ≠ 12#4) ∧ s.status.extractLsb' 1 2 = s.err.code) ∧
  ErrCode.none.code = 0#2 ∧ ErrCode.roundCountRange.code = 1#2 ∧ ErrCode.laneIndexRange.code = 2#2 ∧
  ErrCode.reservedOp.code = 3#2

/-! ### Frames -/

/-- R71 to R73, R128, R129: what the four command rows leave unchanged when they answer a next state. The host's pins
and the free draws never change; the lanes change by WRL only, and of them only the lane it names; `ridx` changes by PERM
only; the answers grow by RDL only; ERR changes only where the operand is out of range or the op is reserved. -/
def Obligations.CommandsFrame : Prop :=
  ∀ (s t : State) (idx : BitVec 4) (data : Word),
    (exec (.rdl idx) s = .next t →
      (∀ j : Fin 12, t.lanes[j.val] = s.lanes[j.val]) ∧ t.ridx = s.ridx ∧ t.inputs = s.inputs ∧ t.draws = s.draws ∧
      (idx.toNat < 12 → t.err = s.err) ∧ (11 < idx.toNat → t.responses = s.responses)) ∧
    (exec (.wrl idx data) s = .next t →
      (∀ j : Fin 12, j.val ≠ idx.toNat → t.lanes[j.val] = s.lanes[j.val]) ∧ t.ridx = s.ridx ∧
      t.responses = s.responses ∧ t.inputs = s.inputs ∧ t.draws = s.draws ∧ (idx.toNat < 12 → t.err = s.err)) ∧
    (exec (.perm idx) s = .next t →
      (∀ j : Fin 12, t.lanes[j.val] = s.lanes[j.val]) ∧ t.responses = s.responses ∧ t.inputs = s.inputs ∧
      t.draws = s.draws ∧ (idx.toNat ≤ 12 → t.err = s.err) ∧ (12 < idx.toNat → t.ridx = s.ridx)) ∧
    (exec .reserved s = .next t →
      (∀ j : Fin 12, t.lanes[j.val] = s.lanes[j.val]) ∧ t.ridx = s.ridx ∧ t.responses = s.responses ∧
      t.inputs = s.inputs ∧ t.draws = s.draws)

/-- R111: what ROUND leaves unchanged when it answers a next state: ERR, the answers, the host's pins, the free draws. -/
def Obligations.RoundFrame : Prop :=
  ∀ (s t : State) (rc : Word), exec (.round rc) s = .next t →
    t.err = s.err ∧ t.responses = s.responses ∧ t.inputs = s.inputs ∧ t.draws = s.draws
end

