-- ==== Sys2Proof/Laws/Decode.lean ====
section
/-! SUPPORT. The fields of a command word built from its fields, and every word is built so. -/

namespace Sys2Proof

@[simp] theorem opField_commandWord (op : BitVec 2) (idx : BitVec 4) (data : Word) :
    opField (commandWord op idx data) = op := by
  ext i hi
  simp only [opField, commandWord, BitVec.getElem_extractLsb', BitVec.getLsbD_append]
  have h1 : ¬ 36 + i < 32 := by omega
  have h2 : ¬ 36 + i - 32 < 4 := by omega
  have h3 : 36 + i - 32 - 4 = i := by omega
  simp [h1, h2, h3, BitVec.getLsbD_eq_getElem hi]

@[simp] theorem idxField_commandWord (op : BitVec 2) (idx : BitVec 4) (data : Word) :
    idxField (commandWord op idx data) = idx := by
  ext i hi
  simp only [idxField, commandWord, BitVec.getElem_extractLsb', BitVec.getLsbD_append]
  have h1 : ¬ 32 + i < 32 := by omega
  have h2 : 32 + i - 32 = i := by omega
  simp [h1, h2, hi]

@[simp] theorem dataField_commandWord (op : BitVec 2) (idx : BitVec 4) (data : Word) :
    dataField (commandWord op idx data) = data := by
  ext i hi
  simp only [dataField, commandWord, BitVec.getElem_extractLsb', BitVec.getLsbD_append]
  simp [hi]

/-- A command word is its three fields and nothing else. -/
theorem commandWord_fields (w : CommandWord) : commandWord (opField w) (idxField w) (dataField w) = w := by
  refine BitVec.eq_of_getLsbD_eq fun i hi => ?_
  simp only [commandWord, opField, idxField, dataField, BitVec.getLsbD_append, BitVec.getLsbD_extractLsb']
  by_cases h1 : i < 32
  · simp [h1]
  · by_cases h2 : i - 32 < 4
    · have h3 : 32 + (i - 32) = i := by omega
      simp [h1, h2, h3]
    · have h3 : 36 + (i - 32 - 4) = i := by omega
      have h4 : i - 32 - 4 < 2 := by omega
      simp [h1, h2, h3, h4]

end Sys2Proof
end

