-- ==== Sys2Proof/Laws/State.lean ====
section
/-! SUPPORT. What each named update of the state does to each field, so that no proof unfolds a record update. -/

namespace Sys2Proof.Machine

@[simp] theorem State.writeLane_lanes (s : State) (i : Fin 12) (v : Word) : (s.writeLane i v).lanes = s.lanes.set i.val v := rfl
@[simp] theorem State.writeLane_ridx (s : State) (i : Fin 12) (v : Word) : (s.writeLane i v).ridx = s.ridx := rfl
@[simp] theorem State.writeLane_err (s : State) (i : Fin 12) (v : Word) : (s.writeLane i v).err = s.err := rfl
@[simp] theorem State.writeLane_inputs (s : State) (i : Fin 12) (v : Word) : (s.writeLane i v).inputs = s.inputs := rfl
@[simp] theorem State.writeLane_responses (s : State) (i : Fin 12) (v : Word) : (s.writeLane i v).responses = s.responses := rfl
@[simp] theorem State.writeLane_draws (s : State) (i : Fin 12) (v : Word) : (s.writeLane i v).draws = s.draws := rfl

@[simp] theorem State.setRidx_lanes (s : State) (k : BitVec 4) : (s.setRidx k).lanes = s.lanes := rfl
@[simp] theorem State.setRidx_ridx (s : State) (k : BitVec 4) : (s.setRidx k).ridx = k := rfl
@[simp] theorem State.setRidx_err (s : State) (k : BitVec 4) : (s.setRidx k).err = s.err := rfl
@[simp] theorem State.setRidx_inputs (s : State) (k : BitVec 4) : (s.setRidx k).inputs = s.inputs := rfl
@[simp] theorem State.setRidx_responses (s : State) (k : BitVec 4) : (s.setRidx k).responses = s.responses := rfl
@[simp] theorem State.setRidx_draws (s : State) (k : BitVec 4) : (s.setRidx k).draws = s.draws := rfl

@[simp] theorem State.respond_lanes (s : State) (v : Word) : (s.respond v).lanes = s.lanes := rfl
@[simp] theorem State.respond_ridx (s : State) (v : Word) : (s.respond v).ridx = s.ridx := rfl
@[simp] theorem State.respond_err (s : State) (v : Word) : (s.respond v).err = s.err := rfl
@[simp] theorem State.respond_inputs (s : State) (v : Word) : (s.respond v).inputs = s.inputs := rfl
@[simp] theorem State.respond_responses (s : State) (v : Word) : (s.respond v).responses = s.responses ++ [v] := rfl
@[simp] theorem State.respond_draws (s : State) (v : Word) : (s.respond v).draws = s.draws := rfl

@[simp] theorem State.raise_lanes (s : State) (c : ErrCode) : (s.raise c).lanes = s.lanes := rfl
@[simp] theorem State.raise_ridx (s : State) (c : ErrCode) : (s.raise c).ridx = s.ridx := rfl
@[simp] theorem State.raise_err (s : State) (c : ErrCode) : (s.raise c).err = c := rfl
@[simp] theorem State.raise_inputs (s : State) (c : ErrCode) : (s.raise c).inputs = s.inputs := rfl
@[simp] theorem State.raise_responses (s : State) (c : ErrCode) : (s.raise c).responses = s.responses := rfl
@[simp] theorem State.raise_draws (s : State) (c : ErrCode) : (s.raise c).draws = s.draws := rfl

@[simp] theorem State.advance_lanes (s : State) : (s.advance).lanes = s.lanes := rfl
@[simp] theorem State.advance_ridx (s : State) : (s.advance).ridx = s.ridx := rfl
@[simp] theorem State.advance_err (s : State) : (s.advance).err = s.err := rfl
@[simp] theorem State.advance_inputs (s : State) : (s.advance).inputs = s.inputs.tail := rfl
@[simp] theorem State.advance_responses (s : State) : (s.advance).responses = s.responses := rfl
@[simp] theorem State.advance_draws (s : State) : (s.advance).draws = s.draws := rfl

@[simp] theorem State.resetBlock_lanes (s : State) : (s.resetBlock).lanes = Config.freeLanes s.draws := rfl
@[simp] theorem State.resetBlock_ridx (s : State) : (s.resetBlock).ridx = 12#4 := rfl
@[simp] theorem State.resetBlock_err (s : State) : (s.resetBlock).err = .none := rfl
@[simp] theorem State.resetBlock_inputs (s : State) : (s.resetBlock).inputs = s.inputs := rfl
@[simp] theorem State.resetBlock_responses (s : State) : (s.resetBlock).responses = s.responses := rfl
@[simp] theorem State.resetBlock_draws (s : State) : (s.resetBlock).draws = s.draws + 12 := rfl

@[simp] theorem State.runRound_lanes (s : State) (rc : Word) : (s.runRound rc).lanes = roundFn s.lanes rc := rfl
@[simp] theorem State.runRound_ridx (s : State) (rc : Word) : (s.runRound rc).ridx = s.ridx + 1#4 := rfl
@[simp] theorem State.runRound_err (s : State) (rc : Word) : (s.runRound rc).err = s.err := rfl
@[simp] theorem State.runRound_inputs (s : State) (rc : Word) : (s.runRound rc).inputs = s.inputs := rfl
@[simp] theorem State.runRound_responses (s : State) (rc : Word) : (s.runRound rc).responses = s.responses := rfl
@[simp] theorem State.runRound_draws (s : State) (rc : Word) : (s.runRound rc).draws = s.draws := rfl

@[simp] theorem State.reset_ridx : State.reset.ridx = 12#4 := rfl
@[simp] theorem State.reset_err : State.reset.err = .none := rfl
@[simp] theorem State.reset_inputs : State.reset.inputs = [] := rfl
@[simp] theorem State.reset_responses : State.reset.responses = [] := rfl

/-! The predicates of Machine/Flags.lean see `ridx` and `err` only. -/

@[simp] theorem State.advance_cmdReady (s : State) : s.advance.cmdReady = s.cmdReady := rfl
@[simp] theorem State.advance_busy (s : State) : s.advance.busy = s.busy := rfl
@[simp] theorem State.advance_halted (s : State) : s.advance.halted = s.halted := rfl
@[simp] theorem State.writeLane_cmdReady (s : State) (i : Fin 12) (v : Word) :
    (s.writeLane i v).cmdReady = s.cmdReady := rfl
@[simp] theorem State.respond_cmdReady (s : State) (v : Word) : (s.respond v).cmdReady = s.cmdReady := rfl
@[simp] theorem State.advance_readLane (s : State) (i : Fin 12) : s.advance.readLane i = s.readLane i := rfl

end Sys2Proof.Machine
end

