-- ==== Sys2Proof/Laws/Ops.lean ====
section
/-! SUPPORT. One lemma for each shared operation: everything it can do. -/

namespace Sys2Proof.Machine

/-! ### Acceptance and the lane space -/

/-- The block is ready exactly when idle and not halted (R50). -/
theorem State.cmdReady_iff (s : State) : s.cmdReady = true ↔ s.ridx = 12#4 ∧ s.err = .none := by
  simp [State.cmdReady, State.busy, State.halted]

theorem accept_of_ready {s : State} (h : s.cmdReady = true) (effect : State → State) :
    accept s effect = .next (effect s) := by simp [accept, h]

theorem accept_of_not_ready {s : State} (h : s.cmdReady = false) (effect : State → State) :
    accept s effect = .next s := by simp [accept, h]

/-- Acceptance always answers a next state: the effect of a ready block, or the same state. -/
theorem accept_cases (s : State) (effect : State → State) :
    (s.cmdReady = true ∧ accept s effect = .next (effect s)) ∨ (s.cmdReady = false ∧ accept s effect = .next s) := by
  cases h : s.cmdReady
  · exact .inr ⟨rfl, accept_of_not_ready h effect⟩
  · exact .inl ⟨rfl, accept_of_ready h effect⟩

theorem laneIndex?_of_lt {idx : BitVec 4} (h : idx.toNat < 12) : laneIndex? idx = some ⟨idx.toNat, h⟩ := by
  simp [laneIndex?, h]

theorem laneIndex?_of_ge {idx : BitVec 4} (h : 12 ≤ idx.toNat) : laneIndex? idx = none := by
  simp [laneIndex?, Nat.not_lt.mpr h]

theorem startIndex?_of_le {idx : BitVec 4} (h : idx.toNat ≤ 12) : startIndex? idx = some (12#4 - idx) := by
  simp [startIndex?, h]

theorem startIndex?_of_gt {idx : BitVec 4} (h : 12 < idx.toNat) : startIndex? idx = none := by
  simp [startIndex?, Nat.not_le.mpr h]

theorem withLane_of_lt {idx : BitVec 4} (h : idx.toNat < 12) (s : State) (effect : Fin 12 → State) :
    withLane idx s effect = effect ⟨idx.toNat, h⟩ := by simp [withLane, laneIndex?_of_lt h]

theorem withLane_of_ge {idx : BitVec 4} (h : 12 ≤ idx.toNat) (s : State) (effect : Fin 12 → State) :
    withLane idx s effect = s.raise .laneIndexRange := by simp [withLane, laneIndex?_of_ge h]

/-- A written lane reads as the value written. -/
@[simp] theorem State.readLane_writeLane_self (s : State) (i : Fin 12) (v : Word) :
    (s.writeLane i v).readLane i = v := by simp [State.readLane, State.writeLane]

/-- A write leaves every other lane alone. -/
theorem State.readLane_writeLane_ne (s : State) {i j : Fin 12} (h : i ≠ j) (v : Word) :
    (s.writeLane i v).readLane j = s.readLane j := by
  have h' : i.val ≠ j.val := fun e => h (Fin.ext e)
  simp [State.readLane, State.writeLane, h']

/-- `12 - R` does not wrap for R at most 12 (R118). -/
theorem toNat_startIndex {idx : BitVec 4} (h : idx.toNat ≤ 12) : (12#4 - idx).toNat = 12 - idx.toNat := by
  rw [BitVec.toNat_sub_of_le]
  · rfl
  · simpa [BitVec.le_def] using h

/-- `ridx + 1` does not wrap while the sequencer is active (R118). -/
theorem toNat_succ_ridx {k : BitVec 4} (h : k.toNat < 12) : (k + 1#4).toNat = k.toNat + 1 := by
  simp only [BitVec.toNat_add, BitVec.toNat_ofNat]; omega

/-- `ridx` is 12 exactly when its number is. -/
theorem ridx_eq_idle_iff (k : BitVec 4) : k = 12#4 ↔ k.toNat = 12 := by
  rw [← BitVec.toNat_inj]; rfl

end Sys2Proof.Machine
end

