-- ==== Sys2Proof/Laws/Exec.lean ====
section
/-! SUPPORT. What each instruction can do, one lemma per case, and one inversion lemma for all of them. -/

namespace Sys2Proof.Machine

/-- RDL on a ready block (R71). -/
theorem execRdl_of_ready {s : State} (h : s.cmdReady = true) (idx : BitVec 4) :
    execRdl idx s = .next (withLane idx s fun i => s.respond (s.readLane i)) := accept_of_ready h _

/-- WRL on a ready block (R72). -/
theorem execWrl_of_ready {s : State} (h : s.cmdReady = true) (idx : BitVec 4) (data : Word) :
    execWrl idx data s = .next (withLane idx s fun i => s.writeLane i data) := accept_of_ready h _

/-- PERM on a ready block, R at most 12 (R73). -/
theorem execPerm_of_le {s : State} (h : s.cmdReady = true) {idx : BitVec 4} (hi : idx.toNat ≤ 12) :
    execPerm idx s = .next (s.setRidx (12#4 - idx)) := by
  simp [execPerm, accept_of_ready h, startIndex?_of_le hi]

/-- PERM on a ready block, R above 12 (R126). -/
theorem execPerm_of_gt {s : State} (h : s.cmdReady = true) {idx : BitVec 4} (hi : 12 < idx.toNat) :
    execPerm idx s = .next (s.raise .roundCountRange) := by
  simp [execPerm, accept_of_ready h, startIndex?_of_gt hi]

/-- A reserved word on a ready block (R128). -/
theorem execReserved_of_ready {s : State} (h : s.cmdReady = true) :
    execReserved s = .next (s.raise .reservedOp) := accept_of_ready h _

/-- ROUND while the sequencer is active (R111). -/
theorem execRound_of_active {s : State} (h : s.ridx.toNat < 12) (rc : Word) :
    execRound rc s = .next (s.runRound rc) := by simp [execRound, h]

/-- Everything an instruction can do when it answers a next state: nothing, an answer, a lane write, a start of the
sequencer, a fault entry, or a round. -/
theorem exec_next_cases {i : Instr} {s t : State} (h : exec i s = .next t) :
    t = s ∨
    (s.cmdReady = true ∧ ∃ idx, ∃ j : Fin 12, i = .rdl idx ∧ idx.toNat = j.val ∧ t = s.respond (s.readLane j)) ∨
    (s.cmdReady = true ∧ ∃ idx data, ∃ j : Fin 12, i = .wrl idx data ∧ idx.toNat = j.val ∧ t = s.writeLane j data) ∨
    (s.cmdReady = true ∧ ∃ idx, i = .perm idx ∧ idx.toNat ≤ 12 ∧ t = s.setRidx (12#4 - idx)) ∨
    (s.cmdReady = true ∧ (∃ idx, i = .rdl idx ∧ 12 ≤ idx.toNat) ∧ t = s.raise .laneIndexRange) ∨
    (s.cmdReady = true ∧ (∃ idx data, i = .wrl idx data ∧ 12 ≤ idx.toNat) ∧ t = s.raise .laneIndexRange) ∨
    (s.cmdReady = true ∧ (∃ idx, i = .perm idx ∧ 12 < idx.toNat) ∧ t = s.raise .roundCountRange) ∨
    (s.cmdReady = true ∧ i = .reserved ∧ t = s.raise .reservedOp) ∨
    (s.ridx.toNat < 12 ∧ ∃ rc, i = .round rc ∧ t = s.runRound rc) := by
  cases i with
  | rdl idx =>
    rcases accept_cases s (fun s => withLane idx s fun i => s.respond (s.readLane i)) with ⟨hr, e⟩ | ⟨_, e⟩
    · have ht : withLane idx s (fun i => s.respond (s.readLane i)) = t := by
        simpa [exec, execRdl, e] using h
      rcases Nat.lt_or_ge idx.toNat 12 with hi | hi
      · rw [withLane_of_lt hi] at ht
        exact .inr (.inl ⟨hr, idx, ⟨idx.toNat, hi⟩, rfl, rfl, ht.symm⟩)
      · rw [withLane_of_ge hi] at ht
        exact .inr (.inr (.inr (.inr (.inl ⟨hr, ⟨idx, rfl, hi⟩, ht.symm⟩))))
    · exact .inl (by simpa [exec, execRdl, e] using h.symm)
  | wrl idx data =>
    rcases accept_cases s (fun s => withLane idx s fun i => s.writeLane i data) with ⟨hr, e⟩ | ⟨_, e⟩
    · have ht : withLane idx s (fun i => s.writeLane i data) = t := by
        simpa [exec, execWrl, e] using h
      rcases Nat.lt_or_ge idx.toNat 12 with hi | hi
      · rw [withLane_of_lt hi] at ht
        exact .inr (.inr (.inl ⟨hr, idx, data, ⟨idx.toNat, hi⟩, rfl, rfl, ht.symm⟩))
      · rw [withLane_of_ge hi] at ht
        exact .inr (.inr (.inr (.inr (.inr (.inl ⟨hr, ⟨idx, data, rfl, hi⟩, ht.symm⟩)))))
    · exact .inl (by simpa [exec, execWrl, e] using h.symm)
  | perm idx =>
    cases hr : s.cmdReady
    · exact .inl (by simpa [exec, execPerm, accept_of_not_ready hr] using h.symm)
    · rcases Nat.lt_or_ge 12 idx.toNat with hi | hi
      · have ht : s.raise .roundCountRange = t := by simpa [exec, execPerm_of_gt hr hi] using h
        exact .inr (.inr (.inr (.inr (.inr (.inr (.inl ⟨rfl, ⟨idx, rfl, hi⟩, ht.symm⟩))))))
      · have ht : s.setRidx (12#4 - idx) = t := by simpa [exec, execPerm_of_le hr hi] using h
        exact .inr (.inr (.inr (.inl ⟨rfl, idx, rfl, hi, ht.symm⟩)))
  | reserved =>
    cases hr : s.cmdReady
    · exact .inl (by simpa [exec, execReserved, accept_of_not_ready hr] using h.symm)
    · have ht : s.raise .reservedOp = t := by simpa [exec, execReserved_of_ready hr] using h
      exact .inr (.inr (.inr (.inr (.inr (.inr (.inr (.inl ⟨rfl, rfl, ht.symm⟩)))))))
  | round rc =>
    by_cases hk : s.ridx.toNat < 12
    · have ht : s.runRound rc = t := by simpa [exec, execRound_of_active hk] using h
      exact .inr (.inr (.inr (.inr (.inr (.inr (.inr (.inr ⟨hk, rc, rfl, ht.symm⟩)))))))
    · by_cases h12 : s.ridx = 12#4
      · exact .inl (by simpa [exec, execRound, h12] using h.symm)
      · simp [exec, execRound, hk, h12] at h

end Sys2Proof.Machine
end

