-- ==== Sys2Proof/Laws/PerInstr.lean ====
section
/-! SUPPORT. One lemma per constructor for each family of LAWS.json. -/

namespace Sys2Proof.Laws

/-- The encoding of the instruction fits its format's width (R52, R60). -/
def EncodeFits.Statement (i : Instr) : Prop := (encode i).toNat < 2 ^ (encode i).width

theorem EncodeFits.rdl (idx : BitVec 4) : EncodeFits.Statement (.rdl idx) := BitVec.isLt _
theorem EncodeFits.wrl (idx : BitVec 4) (data : Word) : EncodeFits.Statement (.wrl idx data) := BitVec.isLt _
theorem EncodeFits.perm (idx : BitVec 4) : EncodeFits.Statement (.perm idx) := BitVec.isLt _
theorem EncodeFits.reserved : EncodeFits.Statement .reserved := BitVec.isLt _
theorem EncodeFits.round (rc : Word) : EncodeFits.Statement (.round rc) := BitVec.isLt _

end Sys2Proof.Laws
end

