-- ==== Sys2Proof/Laws/Round.lean ====
section
/-! SUPPORT. Small lemmas of the round function and of rounds in a row. -/

namespace Sys2Proof.Machine

@[simp] theorem rotl_zero (n : Nat) : rotl 0#32 n = 0#32 := by simp [rotl]

/-- For `0 < n < 32` the rotation is the library's (R7). -/
theorem rotl_eq_rotateLeft (x : Word) {n : Nat} (h : n < 32) : rotl x n = x.rotateLeft n := by
  simp [rotl, BitVec.rotateLeft, BitVec.rotateLeftAux, Nat.mod_eq_of_lt h]

@[simp] theorem applyRounds_nil (x : Lanes) : applyRounds x [] = x := rfl

@[simp] theorem applyRounds_cons (x : Lanes) (rc : Word) (rcs : List Word) :
    applyRounds x (rc :: rcs) = applyRounds (roundFn x rc) rcs := rfl

/-- Rounds in a row compose. -/
theorem applyRounds_append (x : Lanes) (as bs : List Word) :
    applyRounds x (as ++ bs) = applyRounds (applyRounds x as) bs := by simp [applyRounds]

/-- The constants of a longer operation end with those of a shorter one (R112). -/
theorem schedule_drop {a b : Nat} (hab : a ≤ b) (hb : b ≤ 12) : (schedule b).drop (b - a) = schedule a := by
  simp only [schedule, List.drop_drop]; congr 1; omega

end Sys2Proof.Machine
end

