-- ==== Sys2Proof/Laws/Step.lean ====
section
/-! SUPPORT. What one step can do, and how runs of steps compose. -/

namespace Sys2Proof.Machine

theorem step_of_reset {s : State} (h : nextEvent s = .reset) : step s = .next s.advance.resetBlock := by
  simp [step, h]

theorem step_of_run {s : State} {i : Instr} (h : nextEvent s = .run i) : step s = exec i s.advance := by
  simp [step, h]

theorem step_of_nothing {s : State} (h : nextEvent s = .nothing) : step s = .next s.advance := by
  simp [step, h]

/-- A ROM word exists exactly at the indices 0 to 11 (R31). -/
theorem fetchRom_of_lt {k : BitVec 4} (h : k.toNat < 12) : fetchRom k = some rom[k.toNat] := by
  simp [fetchRom, h]

/-- When the sequencer is active and no reset comes, the next event is the ROUND of the ROM word at `ridx`. -/
theorem nextEvent_of_active {s : State} (hr : s.pins.rst = false) (h : s.ridx.toNat < 12) :
    nextEvent s = .run (.round rom[s.ridx.toNat]) := by
  have hb : s.busy = true := by
    simp only [State.busy, ne_eq, decide_eq_true_eq, ridx_eq_idle_iff]; omega
  simp [nextEvent, hr, hb, fetchRound, fetchRom_of_lt h, decodeRomWord]

/-- When the block is ready, no reset comes and a command is offered, the next event is that command. -/
theorem nextEvent_of_offer {s : State} (hr : s.pins.rst = false) (h : s.cmdReady = true)
    (hv : s.pins.cmdValid = true) : nextEvent s = .run (decodeCommand s.pins.cmd) := by
  simp only [State.cmdReady, Bool.and_eq_true, Bool.not_eq_true'] at h
  simp [nextEvent, hr, h.1, h.2, hv]

/-- Everything a step can do when it answers a next state: a reset step, a round, an accepted command, or nothing. -/
theorem step_next_cases {s t : State} (h : step s = .next t) :
    (s.pins.rst = true ∧ t = s.advance.resetBlock) ∨
    (s.pins.rst = false ∧ ∃ hk : s.ridx.toNat < 12, t = s.advance.runRound rom[s.ridx.toNat]) ∨
    (s.pins.rst = false ∧ s.cmdReady = true ∧ s.pins.cmdValid = true ∧
      exec (decodeCommand s.pins.cmd) s.advance = .next t) ∨
    (s.pins.rst = false ∧ s.ridx = 12#4 ∧ (s.err ≠ .none ∨ s.pins.cmdValid = false) ∧ t = s.advance) := by
  cases hr : s.pins.rst
  · by_cases hk : s.ridx.toNat < 12
    · rw [step_of_run (nextEvent_of_active hr hk)] at h
      refine .inr (.inl ⟨rfl, hk, ?_⟩)
      have hk' : s.advance.ridx.toNat < 12 := hk
      simpa [exec, execRound_of_active hk'] using h.symm
    · by_cases h12 : s.ridx = 12#4
      · have hb : s.busy = false := by simp [State.busy, h12]
        by_cases he : s.err = .none
        · cases hv : s.pins.cmdValid
          · have : nextEvent s = .nothing := by simp [nextEvent, hr, hb, hv, State.halted, he]
            rw [step_of_nothing this] at h
            exact .inr (.inr (.inr ⟨rfl, h12, .inr rfl, by simpa using h.symm⟩))
          · have hc : s.cmdReady = true := (s.cmdReady_iff).mpr ⟨h12, he⟩
            rw [step_of_run (nextEvent_of_offer hr hc hv)] at h
            exact .inr (.inr (.inl ⟨rfl, hc, rfl, h⟩))
        · have : nextEvent s = .nothing := by simp [nextEvent, hr, hb, State.halted, he]
          rw [step_of_nothing this] at h
          exact .inr (.inr (.inr ⟨rfl, h12, .inl he, by simpa using h.symm⟩))
      · have hb : s.busy = true := by simp [State.busy, h12]
        have hf : fetchRom s.ridx = none := by simp [fetchRom]; omega
        have : nextEvent s = .stuck .ridxUnreachable := by simp [nextEvent, hr, hb, fetchRound, hf]
        simp [step, this] at h
  · have : nextEvent s = .reset := by simp [nextEvent, hr]
    rw [step_of_reset this] at h
    exact .inl ⟨rfl, by simpa using h.symm⟩

/-! ### Runs -/

@[simp] theorem run_zero (s : State) : run 0 s = .next s := rfl

theorem run_succ {s t : State} (h : step s = .next t) (n : Nat) : run (n + 1) s = run n t := by
  have h' : core.step s = .next t := h
  simp only [run, Host.Core.run, h']
  rfl

/-- A run that goes on has a first step that goes on. -/
theorem run_succ_next {s t : State} {n : Nat} (h : run (n + 1) s = .next t) :
    ∃ u, step s = .next u ∧ run n u = .next t := by
  simp only [run, Host.Core.run] at h
  cases hs : core.step s with
  | next u => rw [hs] at h; exact ⟨u, hs, h⟩
  | fault r => rw [hs] at h; cases h
  | refused r => rw [hs] at h; cases h

/-- A run of `m + n` steps is a run of `m` and then of `n`. -/
theorem run_add {m n : Nat} {s t : State} (h : run m s = .next t) : run (m + n) s = run n t := by
  induction m generalizing s with
  | zero => cases h; simp
  | succ m ih =>
    obtain ⟨u, hu, hr⟩ := run_succ_next h
    rw [Nat.succ_add, run_succ hu]
    exact ih hr

end Sys2Proof.Machine
end

