-- ==== Sys2Proof/Tests/Slice0.lean ====
section
/-! SUPPORT. Small tests. Expected values are the spec's (95_test_vectors.md, or the rule a comment names). The
witnesses at the end show that the hypotheses of each statement can be met together. -/

namespace Sys2Proof.Tests

open Sys2Proof Sys2Proof.Machine

/-! ### Well-formedness: one ill-formed term for each check (R58, R57, R103 e), and the legal neighbours (V13) -/

theorem test_wellFormed_refuses_lane_12_read : (Instr.rdl 12#4).wellFormed = false := by decide
theorem test_wellFormed_refuses_lane_12_write : (Instr.wrl 12#4 1#32).wellFormed = false := by decide
theorem test_wellFormed_refuses_13_rounds : (Instr.perm 13#4).wellFormed = false := by decide
theorem test_wellFormed_refuses_reserved : Instr.reserved.wellFormed = false := by decide
theorem test_wellFormed_refuses_a_constant_outside_the_rom : (Instr.round 0#32).wellFormed = false := by decide
theorem test_wellFormed_takes_the_highest_operands :
    (Instr.rdl 11#4).wellFormed = true ∧ (Instr.wrl 11#4 0#32).wellFormed = true ∧
    (Instr.perm 12#4).wellFormed = true ∧ (Instr.round 0x12#32).wellFormed = true := by decide

/-! ### Decoding: words written out bit by bit, op idx data (R52) -/

theorem test_decode_rdl_11 : -- RDL 11 (R54)
    decodeCommand 0b00101100000000000000000000000000000000#38 = .rdl 11#4 := by decide
theorem test_decode_wrl_3 : -- WRL 3, 0xDEADBEEF (R52)
    decodeCommand 0b01001111011110101011011011111011101111#38 = .wrl 3#4 0xDEADBEEF#32 := by decide
theorem test_decode_perm_6 : -- PERM 6 (R56)
    decodeCommand 0b10011000000000000000000000000000000000#38 = .perm 6#4 := by decide
theorem test_decode_reserved : -- every bit set (V13)
    decodeCommand 0b11111111111111111111111111111111111111#38 = .reserved := by decide
theorem test_decode_round : -- ROM[11] (R60)
    decodeRomWord 0b00000000000000000000000000010010#32 = .round 0x12#32 := by decide
theorem test_decode_refuses_a_39_bit_command : codeWordOf 40 (2 ^ 38) = .error .commandTooWide := by rfl
theorem test_decode_refuses_a_33_bit_rom_word : codeWordOf 32 (2 ^ 32) = .error .romWordTooWide := by rfl

/-! ### States -/

/-- Every lane 0, idle, unhalted. -/
def idle : State :=
  { lanes := Vector.replicate 12 0#32, ridx := 12#4, err := .none, inputs := [], responses := [], draws := 0 }

/-- `idle` with the sequencer at ROM index `k`. -/
def busyAt (k : BitVec 4) : State := { idle with ridx := k }

/-- `idle`, halted. -/
def halted : State := { idle with err := .laneIndexRange }

/-- `idle`, the host offering one word. -/
def offering (w : CommandWord) : State := { idle with inputs := [offer w] }

/-- `idle` before a reset step. -/
def resetting : State := { idle with inputs := [{ rst := true, cmdValid := false, cmd := 0#38 }] }

/-- The dense state of V27. -/
def dense : Lanes :=
  #v[0x9E3779B9#32, 0x3C6EF372#32, 0xDAA66D2B#32, 0x78DDE6E4#32, 0x1715609D#32, 0xB54CDA56#32,
     0x5384540F#32, 0xF1BBCDC8#32, 0x8FF34781#32, 0x2E2AC13A#32, 0xCC623AF3#32, 0x6A99B4AC#32]

/-! ### Instructions, one step each -/

theorem test_rdl_answers_lane_4 : -- R71's example
    ∃ t, exec (.rdl 4#4) { idle with lanes := idle.lanes.set 4 0x36B18106#32 } = .next t ∧
      t.responses = [0x36B18106#32] := ⟨_, rfl, by decide⟩
theorem test_rdl_15_faults : -- V17
    ∃ t, exec (.rdl 15#4) idle = .next t ∧ t.status = 0b100#3 ∧ t.responses = [] := ⟨_, rfl, by decide, by decide⟩
theorem test_wrl_writes_lane_3 : -- R72's example
    ∃ t, exec (.wrl 3#4 0xDEADBEEF#32) idle = .next t ∧ t.lanes[3] = 0xDEADBEEF#32 ∧ t.lanes[2] = 0#32 :=
  ⟨_, rfl, by decide, by decide⟩
theorem test_wrl_12_faults : -- V17
    ∃ t, exec (.wrl 12#4 1#32) idle = .next t ∧ t.status = 0b100#3 ∧ t.lanes = idle.lanes :=
  ⟨_, rfl, by decide, by decide⟩
theorem test_perm_12_starts_at_0 : -- R73
    ∃ t, exec (.perm 12#4) idle = .next t ∧ t.ridx = 0#4 ∧ t.cmdReady = false := ⟨_, rfl, by decide, by decide⟩
theorem test_perm_13_faults : -- V16
    ∃ t, exec (.perm 13#4) idle = .next t ∧ t.status = 0b010#3 ∧ t.ridx = 12#4 := ⟨_, rfl, by decide, by decide⟩
theorem test_reserved_faults : -- V18
    ∃ t, exec .reserved idle = .next t ∧ t.status = 0b110#3 := ⟨_, rfl, by decide⟩
theorem test_round_on_a_dense_state : -- V27
    roundFn dense 0x58#32 =
      #v[0x0215A18D#32, 0xF14D3367#32, 0xC5BDE784#32, 0xB0484D5E#32, 0xB6958EE0#32, 0x7C955438#32,
         0x73ED108C#32, 0x313D6EAA#32, 0xC520F9FC#32, 0x6E141268#32, 0x3156CF5D#32, 0xA3FD054C#32] := by decide
theorem test_round_counts : -- V34, first line
    ∃ t, exec (.round 0x58#32) (busyAt 0#4) = .next t ∧ t.ridx = 1#4 ∧ t.lanes[4] = 0xB0#32 :=
  ⟨_, rfl, by decide, by decide⟩

/-! ### Steps -/

theorem test_step_accepts_an_offer : -- P4, step 14
    ∃ t, step (offering 0x2300000000#38) = .next t ∧ t.ridx = 9#4 ∧ t.inputs = [] := ⟨_, rfl, by decide, by decide⟩
theorem test_step_holds_an_offer_while_busy : -- P4, step 17: a ROUND, no answer
    ∃ t, step { busyAt 11#4 with inputs := [offer 0#38] } = .next t ∧ t.ridx = 12#4 ∧ t.responses = [] :=
  ⟨_, rfl, by decide, by decide⟩
theorem test_step_resets_a_halted_block : -- V19
    ∃ t, step { resetting with err := .roundCountRange } = .next t ∧ t.cmdReady = true := ⟨_, rfl, by decide⟩
theorem test_first_step_after_reset_runs_a_placed_command :
    ∃ t, step (State.reset.withFetchWord 40 0x2C00000000) = .next t ∧ t.ridx = 0#4 := ⟨_, rfl, by decide⟩
theorem test_first_step_after_reset_runs_a_placed_rom_word :
    ∃ t, step (State.reset.withFetchWord 32 0x1A0) = .next t ∧ t.ridx = 11#4 := ⟨_, rfl, by decide⟩
theorem test_apply_6_holds_its_first_read : -- P2: 12 WRL, PERM 6, RDL 0 offered 7 times, 11 more RDL
    ((apply 6 dense).mapM assemble).map (fun ws => (holdOffers 0 ws).length) = some 31 := by decide

/-! ### Witnesses: the hypotheses of the statements can be met, at the edges of their ranges -/

theorem witness_EveryCommandWordHasItsOneOutcome :
    idle.cmdReady = true ∧
    (0x0B00000000#38).toNat / 2 ^ 36 = 0 ∧ (0x0B00000000#38).toNat / 2 ^ 32 % 16 = 11 ∧
    (0x0C00000000#38).toNat / 2 ^ 36 = 0 ∧ (0x0C00000000#38).toNat / 2 ^ 32 % 16 = 12 ∧
    (0x1B00000000#38).toNat / 2 ^ 36 = 1 ∧ (0x1B00000000#38).toNat / 2 ^ 32 % 16 = 11 ∧
    (0x1C00000001#38).toNat / 2 ^ 36 = 1 ∧ (0x1C00000001#38).toNat / 2 ^ 32 % 16 = 12 ∧
    (0x2C00000000#38).toNat / 2 ^ 36 = 2 ∧ (0x2C00000000#38).toNat / 2 ^ 32 % 16 = 12 ∧
    (0x2D00000000#38).toNat / 2 ^ 36 = 2 ∧ (0x2D00000000#38).toNat / 2 ^ 32 % 16 = 13 ∧
    (0x3000000000#38).toNat / 2 ^ 36 = 3 := by decide
theorem witness_AssemblerWritesCanonicalLegalWords :
    assemble (.rdl 11) = some 0x0B00000000#38 ∧ assemble (.rdl 12) = none ∧
    assemble (.wrl 11 0xFFFFFFFF) = some 0x1BFFFFFFFF#38 ∧ assemble (.wrl 11 0x100000000) = none ∧
    assemble (.perm 12) = some 0x2C00000000#38 ∧ assemble (.perm 13) = none ∧
    assemble (.word 0x3FFFFFFFFF) = some 0x3FFFFFFFFF#38 := by decide
theorem witness_RdlAnswersTheLane : (11#4).toNat < 12 ∧ idle.cmdReady = true := by decide
theorem witness_WrlWritesExactlyOneLane : (11#4).toNat < 12 ∧ idle.cmdReady = true := by decide
theorem witness_PermLoadsTwelveMinusR : (12#4).toNat ≤ 12 ∧ idle.cmdReady = true := by decide
theorem witness_PermZeroChangesNothing :
    (offering (commandWord 0b10#2 0#4 7#32)).cmdReady = true ∧
    (offering (commandWord 0b10#2 0#4 7#32)).pins =
      { rst := false, cmdValid := true, cmd := commandWord 0b10#2 0#4 7#32 } := by decide
theorem witness_LaneIndexAboveElevenFaults : 11 < (12#4).toNat ∧ idle.cmdReady = true := by decide
theorem witness_RoundCountAboveTwelveFaults : 12 < (13#4).toNat ∧ idle.cmdReady = true := by decide
theorem witness_ReservedOpFaults :
    (offering (commandWord 0b11#2 15#4 1#32)).cmdReady = true ∧
    (offering (commandWord 0b11#2 15#4 1#32)).pins =
      { rst := false, cmdValid := true, cmd := commandWord 0b11#2 15#4 1#32 } := by decide
theorem witness_UnacceptedCommandLeavesNoTrace : (busyAt 11#4).cmdReady = false ∧ halted.cmdReady = false := by decide
theorem witness_ReadsAndWritesAreIdempotent :
    (11#4).toNat < 12 ∧ idle.cmdReady = true ∧ (∃ t, exec (.wrl 11#4 5#32) idle = .next t) ∧
    ∃ t, exec (.rdl 11#4) idle = .next t := ⟨by decide, by decide, ⟨_, rfl⟩, ⟨_, rfl⟩⟩
theorem witness_ReadAfterWriteAnswersTheData :
    (11#4).toNat < 12 ∧ (0#4).toNat < 12 ∧ idle.cmdReady = true ∧ ∃ t, exec (.wrl 11#4 5#32) idle = .next t :=
  ⟨by decide, by decide, by decide, ⟨_, rfl⟩⟩
theorem witness_RoundReplacesLanesAndCounts : (busyAt 0#4).ridx.toNat ≤ 11 ∧ (busyAt 11#4).ridx.toNat ≤ 11 := by decide
theorem witness_RotlMovesEveryBit : 0 < 1 ∧ 31 < 32 := by decide
theorem witness_ChiFollowsItsTruthTable : 31 < 32 := by decide
theorem witness_RomHoldsTheSchedule : fetchRom 11#4 = some 0x12#32 ∧ fetchRom 12#4 = none := by decide
theorem witness_ScheduleIsTheLastR : 12 ≤ 12 ∧ 11 < 12 := by decide
theorem witness_ShorterOperationIsTheTail : 6 ≤ 12 ∧ 12 ≤ 12 := by decide
theorem witness_StepRunsTheDecodedInstruction :
    ((offering 0#38).pins.rst = false ∧ (offering 0#38).cmdReady = true ∧ (offering 0#38).pins.cmdValid = true) ∧
    (busyAt 11#4).pins.rst = false ∧ fetchRom (busyAt 11#4).ridx = some 0x12#32 := by decide
theorem witness_SequencerStepRunsOneRound : (busyAt 11#4).ridx.toNat ≤ 11 ∧ (busyAt 11#4).pins.rst = false := by decide
theorem witness_StepFollowsThePriorityTable :
    (resetting.Inv ∧ resetting.pins.rst = true) ∧
    ((busyAt 11#4).Inv ∧ (busyAt 11#4).pins.rst = false ∧ (busyAt 11#4).ridx ≠ 12#4) ∧
    (halted.Inv ∧ halted.pins.rst = false ∧ halted.ridx = 12#4 ∧ halted.err ≠ .none) ∧
    ((offering 0#38).Inv ∧ (offering 0#38).pins.rst = false ∧ (offering 0#38).ridx = 12#4 ∧
      (offering 0#38).err = .none ∧ (offering 0#38).pins.cmdValid = true) ∧
    (idle.Inv ∧ idle.pins.rst = false ∧ idle.ridx = 12#4 ∧ idle.err = .none ∧ idle.pins.cmdValid = false) := by decide
theorem witness_EveryStepKeepsTheInvariants :
    (resetting.pins.rst = true ∧ ∃ t, step resetting = .next t) ∧ idle.Inv ∧ ∃ t, step idle = .next t :=
  ⟨⟨by decide, ⟨_, rfl⟩⟩, by decide, ⟨_, rfl⟩⟩
theorem witness_NoStepStopsTheMachine : (busyAt 0#4).Inv ∧ halted.Inv := by decide
theorem witness_OnlyUnreachableIndicesAreStuck :
    step (busyAt 13#4) = .fault .ridxUnreachable ∧ (busyAt 12#4).ridx = 12#4 ∧ 12 < (busyAt 13#4).ridx.toNat :=
  ⟨rfl, by decide, by decide⟩
theorem witness_PermComputesThePermutation :
    (12#4).toNat ≤ 12 ∧ (offering (commandWord 0b10#2 12#4 0#32)).cmdReady = true ∧
    (offering (commandWord 0b10#2 12#4 0#32)).inputs =
      { rst := false, cmdValid := true, cmd := commandWord 0b10#2 12#4 0#32 } :: [] ∧
    ∀ p ∈ ([] : List Pins).take (12#4).toNat, p.rst = false := by decide
theorem witness_PermIsBusyForExactlyRSteps :
    (3#4).toNat ≤ 12 ∧ 0 ≤ (3#4).toNat ∧ 3 ≤ (3#4).toNat ∧ (offering (commandWord 0b10#2 3#4 0#32)).cmdReady = true ∧
    (offering (commandWord 0b10#2 3#4 0#32)).inputs =
      { rst := false, cmdValid := true, cmd := commandWord 0b10#2 3#4 0#32 } :: [] ∧
    ∀ p ∈ ([] : List Pins).take 3, p.rst = false := by decide
theorem witness_SequencerStopsWithinTwelveSteps :
    (busyAt 0#4).Inv ∧ (busyAt 0#4).NoReset (12 - (busyAt 0#4).ridx.toNat) ∧ 11 < 12 - (busyAt 0#4).ridx.toNat := by
  decide
theorem witness_ApplyAnswersThePermutation :
    ((apply 12 dense).mapM assemble).isSome = true ∧ idle.cmdReady = true ∧ 12 ≤ 12 := by decide
theorem witness_LdstLoadsTheState : ((ldst dense).mapM assemble).isSome = true ∧ idle.cmdReady = true := by decide
theorem witness_RdstAnswersTheState : (rdst.mapM assemble).isSome = true ∧ idle.cmdReady = true := by decide
theorem witness_ControlIgnoresTheLanes :
    idle.SameControl { idle with lanes := dense } ∧ idle.lanes ≠ dense ∧ ∃ t, run 1 idle = .next t :=
  ⟨by decide, by decide, ⟨_, rfl⟩⟩
theorem witness_FaultingCommandHaltsForGood :
    (12 < (13#4).toNat ∧ (offering (commandWord 0b10#2 13#4 0#32)).cmdReady = true) ∧
    (11 < (12#4).toNat ∧ (offering (commandWord 0b00#2 12#4 0#32)).cmdReady = true) ∧
    (offering (commandWord 0b11#2 0#4 0#32)).inputs =
      { rst := false, cmdValid := true, cmd := commandWord 0b11#2 0#4 0#32 } :: [] ∧
    ∀ p ∈ ([] : List Pins).take 5, p.rst = false := by decide
theorem witness_HaltedBlockStaysHalted : halted.Inv ∧ halted.err ≠ .none ∧ halted.NoReset 5 := by decide
theorem witness_ErrChangesOnlyByFaultOrReset :
    (∃ t, step (offering 0x3000000000#38) = .next t ∧ t.err ≠ (offering 0x3000000000#38).err) ∧
    ∃ t, step { resetting with err := .reservedOp } = .next t ∧ t.err ≠ .reservedOp :=
  ⟨⟨_, rfl, by decide⟩, ⟨_, rfl, by decide⟩⟩
theorem witness_RidxChangesOnlyByPermRoundOrReset :
    (∃ t, step (offering 0x2C00000000#38) = .next t ∧ t.ridx ≠ 12#4) ∧
    (∃ t, step (busyAt 11#4) = .next t ∧ t.ridx ≠ 11#4) ∧
    ∃ t, step { resetting with ridx := 15#4 } = .next t ∧ t.ridx ≠ 15#4 :=
  ⟨⟨_, rfl, by decide⟩, ⟨_, rfl, by decide⟩, ⟨_, rfl, by decide⟩⟩
theorem witness_LanesChangeOnlyByWrlRoundOrReset :
    (∃ t, step (offering 0x1B00000001#38) = .next t ∧ t.lanes[11] ≠ (offering 0x1B00000001#38).lanes[11]) ∧
    ∃ t, step (busyAt 0#4) = .next t ∧ t.lanes[0] ≠ (busyAt 0#4).lanes[0] :=
  ⟨⟨_, rfl, by decide⟩, ⟨_, rfl, by decide⟩⟩
theorem witness_AnswersAreWhatTheResponsePinsShow :
    (offering 0x0B00000000#38).rsp = some 0#32 ∧ (offering 0x0C00000000#38).rsp = none ∧
    ∃ t, step (offering 0x0B00000000#38) = .next t := ⟨by decide, by decide, ⟨_, rfl⟩⟩
theorem witness_OfferIsIgnoredWhileNotReady : (busyAt 0#4).cmdReady = false ∧ halted.cmdReady = false := by decide
theorem witness_DutifulHostNeverHaltsTheBlock :
    (offering 0x2C00000000#38).Inv ∧ (offering 0x2C00000000#38).err = .none ∧
    ∀ p ∈ (offering 0x2C00000000#38).inputs.take 1, p.Dutiful := by decide
theorem witness_ResetStepMakesTheBlockReady : resetting.pins.rst = true := by decide
theorem witness_ResetForgetsTheLanes : resetting.pins.rst = true ∧ ∃ t, step resetting = .next t :=
  ⟨by decide, ⟨_, rfl⟩⟩
theorem witness_CommandsFrame :
    (∃ t, exec (.rdl 11#4) idle = .next t) ∧ (∃ t, exec (.rdl 12#4) idle = .next t) ∧
    (∃ t, exec (.wrl 11#4 1#32) idle = .next t) ∧ (∃ t, exec (.wrl 12#4 1#32) idle = .next t) ∧
    (∃ t, exec (.perm 12#4) idle = .next t) ∧ (∃ t, exec (.perm 13#4) idle = .next t) ∧
    ∃ t, exec .reserved idle = .next t := ⟨⟨_, rfl⟩, ⟨_, rfl⟩, ⟨_, rfl⟩, ⟨_, rfl⟩, ⟨_, rfl⟩, ⟨_, rfl⟩, ⟨_, rfl⟩⟩
theorem witness_RoundFrame : ∃ t, exec (.round 0x12#32) (busyAt 11#4) = .next t := ⟨_, rfl⟩

end Sys2Proof.Tests
end

/-! SUPPORT. Proofs about the registers: the invariants of R24, the ROM, BUSY and STATUS. -/

namespace Sys2Proof.Machine

/-! ### The invariants of R24 -/

/-- The invariants see `ridx` and `ERR` only. -/
theorem State.Inv.congr {s t : State} (hs : s.Inv) (hridx : t.ridx = s.ridx) (herr : t.err = s.err) : t.Inv := by
  simpa only [State.Inv, hridx, herr] using hs

/-- An idle block meets the invariants, halted or not. -/
theorem State.Inv.of_idle {s : State} (h : s.ridx = 12#4) : s.Inv := by
  simp [State.Inv, h]

/-- An unhalted block need only bound `ridx`. -/
theorem State.Inv.of_unhalted {s : State} (herr : s.err = .none) (hridx : s.ridx.toNat ≤ 12) : s.Inv :=
  ⟨hridx, fun h => absurd herr h⟩

/-- While the sequencer is active the block is not halted. -/
theorem State.Inv.unhalted_of_active {s : State} (hs : s.Inv) (h : s.ridx.toNat < 12) : s.err = .none := by
  obtain ⟨-, hhalted⟩ := hs
  by_contra herr
  have hidle : s.ridx.toNat = 12 := (ridx_eq_idle_iff _).mp (hhalted herr)
  omega

/-- A round counts up to 12 at most, and it runs only in an unhalted block (R111). -/
theorem State.Inv.runRound {s : State} (hs : s.Inv) (h : s.ridx.toNat < 12) (rc : Word) : (s.runRound rc).Inv := by
  refine .of_unhalted (hs.unhalted_of_active h) ?_
  rw [State.runRound_ridx, toNat_succ_ridx h]
  exact h

/-- A ready block is idle. -/
theorem State.ridx_of_cmdReady (s : State) (h : s.cmdReady = true) : s.ridx = 12#4 := (s.cmdReady_iff.mp h).1

/-- Every instruction keeps the invariants: an answer and a lane write change neither register, PERM starts an unhalted
block at `12 - R`, and a fault is raised in an idle block. -/
theorem exec_keeps_inv {i : Instr} {s t : State} (hs : s.Inv) (h : exec i s = .next t) : t.Inv := by
  rcases exec_next_cases h with
    rfl | ⟨-, _, _, -, -, rfl⟩ | ⟨-, _, _, _, -, -, rfl⟩ | ⟨hr, idx, -, hidx, rfl⟩ | ⟨hr, -, rfl⟩ | ⟨hr, -, rfl⟩ |
    ⟨hr, -, rfl⟩ | ⟨hr, -, rfl⟩ | ⟨hk, rc, -, rfl⟩
  · exact hs
  · exact hs.congr rfl rfl
  · exact hs.congr rfl rfl
  · refine .of_unhalted (s.cmdReady_iff.mp hr).2 ?_
    rw [State.setRidx_ridx, toNat_startIndex hidx]
    exact Nat.sub_le 12 _
  · exact .of_idle (s.ridx_of_cmdReady hr)
  · exact .of_idle (s.ridx_of_cmdReady hr)
  · exact .of_idle (s.ridx_of_cmdReady hr)
  · exact .of_idle (s.ridx_of_cmdReady hr)
  · exact hs.runRound hk rc

/-- Every step keeps the invariants. -/
theorem step_keeps_inv {s t : State} (hs : s.Inv) (h : step s = .next t) : t.Inv := by
  have hadv : s.advance.Inv := hs.congr rfl rfl
  rcases step_next_cases h with ⟨-, rfl⟩ | ⟨-, hk, rfl⟩ | ⟨-, -, -, hexec⟩ | ⟨-, -, -, rfl⟩
  · exact .of_idle rfl
  · exact hadv.runRound hk _
  · exact exec_keeps_inv hadv hexec
  · exact hadv

/-- A step with `rst` asserted is a reset step, whatever the state (R151, R152). -/
theorem step_of_rst {s : State} (h : s.pins.rst = true) : step s = .next s.advance.resetBlock :=
  step_of_reset (by simp [nextEvent, h])

/-- Settles O33: a reset step leaves an idle block from any state, and `step_keeps_inv` covers every step from a state that
meets the invariants. -/
theorem everyStepKeepsTheInvariants : Obligations.EveryStepKeepsTheInvariants := by
  refine ⟨.of_idle rfl, fun s t hrst h => ?_, fun s t hs h => step_keeps_inv hs h⟩
  rw [step_of_rst hrst] at h
  cases h
  exact .of_idle rfl

/-! ### The ROM of R18 -/

/-- A fetch is a look-up in the schedule written as a list. -/
theorem fetchRom_eq_getElem?_toList (k : BitVec 4) : fetchRom k = rom.toList[k.toNat]? :=
  Vector.getElem?_toList.symm

/-- A fetched word is one of the schedule's. -/
theorem mem_rom_of_fetchRom {k : BitVec 4} {w : Word} (h : fetchRom k = some w) : w ∈ rom.toList := by
  rw [fetchRom_eq_getElem?_toList] at h
  exact List.mem_of_getElem? h

/-- The constants are non-zero only in bits 9 to 1. -/
theorem rom_unused_bits_clear : ∀ w ∈ rom.toList, w &&& 0xFFFFFC01#32 = 0#32 := by simp [rom]

/-- Settles O25: a fetch indexes the list of the twelve constants, each of which has the unused bits clear. -/
theorem romHoldsTheSchedule : Obligations.RomHoldsTheSchedule :=
  ⟨fetchRom_eq_getElem?_toList, fun _ w h => rom_unused_bits_clear w (mem_rom_of_fetchRom h)⟩

/-! ### BUSY and STATUS (R15 to R17) -/

theorem State.busy_iff (s : State) : s.busy = true ↔ s.ridx ≠ 12#4 := by
  simp [State.busy]

/-- Bit 0 of STATUS is BUSY. -/
@[simp] theorem State.status_getLsbD_zero (s : State) : s.status.getLsbD 0 = s.busy := by
  rw [State.status, BitVec.getLsbD_append]
  simp

/-- Bits 2:1 of STATUS are the ERR code. -/
@[simp] theorem State.status_extractLsb'_err (s : State) : s.status.extractLsb' 1 2 = s.err.code :=
  BitVec.extractLsb'_append_eq_left

/-- Settles O55: STATUS is read off its two fields, and the four codes are those of R16's table. -/
theorem statusShowsBusyAndErr : Obligations.StatusShowsBusyAndErr := by
  refine ⟨fun s => ⟨s.busy_iff, ?_, s.status_extractLsb'_err⟩, rfl, rfl, rfl, rfl⟩
  rw [s.status_getLsbD_zero, s.busy_iff]

end Sys2Proof.Machine

/-! SUPPORT. Proofs about the command encoding: the fields as numbers, the mask of R54 to R56, the one outcome of every
command word. -/

namespace Sys2Proof

/-! ### The fields of a command word as numbers (R52) -/

theorem toNat_opField (w : CommandWord) : (opField w).toNat = w.toNat / 2 ^ 36 := by
  have hw : w.toNat < 2 ^ 38 := w.isLt
  rw [opField, BitVec.extractLsb'_toNat, Nat.shiftRight_eq_div_pow]
  omega

theorem toNat_idxField (w : CommandWord) : (idxField w).toNat = w.toNat / 2 ^ 32 % 16 := by
  rw [idxField, BitVec.extractLsb'_toNat, Nat.shiftRight_eq_div_pow]

theorem dataField_eq_ofNat (w : CommandWord) : dataField w = BitVec.ofNat 32 (w.toNat % 2 ^ 32) := by
  refine BitVec.eq_of_toNat_eq ?_
  rw [dataField, BitVec.extractLsb'_toNat, BitVec.toNat_ofNat, Nat.mod_mod, Nat.shiftRight_zero]

/-! ### The op map of R53 -/

/-- Everything the decoder can answer for a command word: one instruction for each value of `op`. -/
theorem decodeCommand_cases (w : CommandWord) :
    (opField w = 0b00#2 ∧ decodeCommand w = .rdl (idxField w)) ∨
    (opField w = 0b01#2 ∧ decodeCommand w = .wrl (idxField w) (dataField w)) ∨
    (opField w = 0b10#2 ∧ decodeCommand w = .perm (idxField w)) ∨
    (opField w = 0b11#2 ∧ decodeCommand w = .reserved) := by
  have hop : ∀ op : BitVec 2, op = 0b00#2 ∨ op = 0b01#2 ∨ op = 0b10#2 ∨ op = 0b11#2 := by decide
  rcases hop (opField w) with h | h | h | h <;> simp [decodeCommand, h]

theorem decodeCommand_eq_rdl_iff (w : CommandWord) : decodeCommand w = .rdl (idxField w) ↔ opField w = 0b00#2 := by
  rcases decodeCommand_cases w with h | h | h | h <;> simp [h]

theorem decodeCommand_eq_wrl_iff (w : CommandWord) :
    decodeCommand w = .wrl (idxField w) (dataField w) ↔ opField w = 0b01#2 := by
  rcases decodeCommand_cases w with h | h | h | h <;> simp [h]

theorem decodeCommand_eq_perm_iff (w : CommandWord) : decodeCommand w = .perm (idxField w) ↔ opField w = 0b10#2 := by
  rcases decodeCommand_cases w with h | h | h | h <;> simp [h]

/-! ### Match and mask (R54 to R56) -/

/-- The mask keeps `op` and clears the two other fields. -/
theorem and_opMask (w : CommandWord) : w &&& 0x3000000000#38 = commandWord (opField w) 0#4 0#32 := by
  have hop : opField (w &&& 0x3000000000#38) = opField w := by
    rw [opField, BitVec.extractLsb'_and]
    exact BitVec.and_allOnes
  have hidx : idxField (w &&& 0x3000000000#38) = 0#4 := by
    rw [idxField, BitVec.extractLsb'_and]
    exact BitVec.and_zero
  have hdata : dataField (w &&& 0x3000000000#38) = 0#32 := by
    rw [dataField, BitVec.extractLsb'_and]
    exact BitVec.and_zero
  rw [← commandWord_fields (w &&& 0x3000000000#38), hop, hidx, hdata]

/-- A match word, all zeros below its `op`, is met exactly by the words of that `op`. -/
theorem and_opMask_eq_iff (w : CommandWord) (op : BitVec 2) :
    w &&& 0x3000000000#38 = commandWord op 0#4 0#32 ↔ opField w = op := by
  rw [and_opMask]
  constructor
  · intro h
    simpa using congrArg opField h
  · rintro rfl
    rfl

/-- Settles O1: the mask selects by `op` (`and_opMask_eq_iff`) as the decoder does; the encoder's words are computed. -/
theorem commandEncodingsFollowMatchAndMask : Obligations.CommandEncodingsFollowMatchAndMask := by
  refine ⟨fun w => ⟨?_, ?_, ?_⟩, fun idx => ?_, rfl, rfl, rfl, rfl, rfl, rfl⟩
  · exact (and_opMask_eq_iff w 0b00#2).trans (decodeCommand_eq_rdl_iff w).symm
  · exact (and_opMask_eq_iff w 0b01#2).trans (decodeCommand_eq_wrl_iff w).symm
  · exact (and_opMask_eq_iff w 0b10#2).trans (decodeCommand_eq_perm_iff w).symm
  · exact ⟨_, _, rfl, dataField_commandWord _ _ _, rfl, dataField_commandWord _ _ _⟩

end Sys2Proof

namespace Sys2Proof.Machine

/-! ### The outcome of each command on a ready block (R71 to R73, R126 to R128) -/

theorem withLane_eq_dite (idx : BitVec 4) (s : State) (effect : Fin 12 → State) :
    withLane idx s effect = if h : idx.toNat < 12 then effect ⟨idx.toNat, h⟩ else s.raise .laneIndexRange := by
  split
  · next h => exact withLane_of_lt h s effect
  · next h => exact withLane_of_ge (Nat.not_lt.mp h) s effect

/-- `12 - R` as the 4-bit word of a number (R73). -/
theorem startIndex_eq_ofNat {idx : BitVec 4} (h : idx.toNat ≤ 12) : 12#4 - idx = BitVec.ofNat 4 (12 - idx.toNat) := by
  rw [← toNat_startIndex h, BitVec.ofNat_toNat, BitVec.setWidth_eq]

theorem exec_rdl_of_ready {s : State} (hr : s.cmdReady = true) (idx : BitVec 4) :
    exec (.rdl idx) s =
      .next (if h : idx.toNat < 12 then s.respond s.lanes[idx.toNat] else s.raise .laneIndexRange) :=
  (execRdl_of_ready hr idx).trans (congrArg _ (withLane_eq_dite idx s _))

theorem exec_wrl_of_ready {s : State} (hr : s.cmdReady = true) (idx : BitVec 4) (data : Word) :
    exec (.wrl idx data) s =
      .next (if h : idx.toNat < 12 then s.writeLane ⟨idx.toNat, h⟩ data else s.raise .laneIndexRange) :=
  (execWrl_of_ready hr idx data).trans (congrArg _ (withLane_eq_dite idx s _))

theorem exec_perm_of_ready {s : State} (hr : s.cmdReady = true) (idx : BitVec 4) :
    exec (.perm idx) s =
      .next (if idx.toNat ≤ 12 then s.setRidx (BitVec.ofNat 4 (12 - idx.toNat)) else s.raise .roundCountRange) := by
  split
  · next h => rw [← startIndex_eq_ofNat h]; exact execPerm_of_le hr h
  · next h => exact execPerm_of_gt hr (Nat.not_le.mp h)

theorem exec_reserved_of_ready {s : State} (hr : s.cmdReady = true) :
    exec .reserved s = .next (s.raise .reservedOp) := execReserved_of_ready hr

/-- Settles O6: read as numbers the fields of the statement are the decoder's, and each value of `op` gives its command
with its outcome on a ready block. -/
theorem everyCommandWordHasItsOneOutcome : Obligations.EveryCommandWordHasItsOneOutcome := by
  intro w s hr
  rw [← toNat_opField, ← toNat_idxField, ← dataField_eq_ofNat]
  rcases decodeCommand_cases w with ⟨hop, hdec⟩ | ⟨hop, hdec⟩ | ⟨hop, hdec⟩ | ⟨hop, hdec⟩ <;> rw [hop, hdec]
  · exact exec_rdl_of_ready hr _
  · exact exec_wrl_of_ready hr _ _
  · exact exec_perm_of_ready hr _
  · exact exec_reserved_of_ready hr

end Sys2Proof.Machine

/-! SUPPORT. Proofs about PERM: its acceptance at a step, the rounds the sequencer then runs, and PERM 0. -/

namespace Sys2Proof.Machine

/-! ### The pins without reset -/

/-- Without reset at the next `n + 1` edges there is none at the next one; idle pins assert none either. -/
theorem State.NoReset.pins_rst {s : State} {n : Nat} (h : s.NoReset (n + 1)) : s.pins.rst = false := by
  rcases hin : s.inputs with _ | ⟨p, ps⟩
  · simp [State.pins, hin, idlePins]
  · simpa [State.pins, hin] using h p (by simp [hin])

/-- Once the edge is past, one edge fewer is known to be without reset. -/
theorem State.NoReset.advance {s : State} {n : Nat} (h : s.NoReset (n + 1)) : s.advance.NoReset n := by
  intro p hp
  have htail : (s.inputs.take (n + 1)).tail = s.advance.inputs.take n :=
    s.inputs.tail_take_eq_take_tail (n + 1)
  exact h p (List.mem_of_mem_tail (htail ▸ hp))

/-! ### The rounds of the sequencer (R111, R112) -/

/-- A step of the active sequencer without reset is one round with the constant at `ridx`, whatever is offered. -/
theorem step_of_active {s : State} (hr : s.pins.rst = false) (h : s.ridx.toNat < 12) :
    step s = .next (s.advance.runRound rom[s.ridx.toNat]) :=
  (step_of_run (nextEvent_of_active hr h)).trans (execRound_of_active (s := s.advance) h _)

/-- The block `k` rounds later: the `k` constants from `ridx` on have been used, and `k` edges are past. -/
def State.afterRounds (s : State) (k : Nat) : State :=
  { s with
    lanes := applyRounds s.lanes ((rom.toList.drop s.ridx.toNat).take k)
    ridx := s.ridx + BitVec.ofNat 4 k
    inputs := s.inputs.drop k }

@[simp] theorem State.afterRounds_zero (s : State) : s.afterRounds 0 = s := by simp [State.afterRounds]

/-- The constants from an index on are the one at that index and those from the next. -/
theorem take_drop_rom {k : Nat} (h : k < 12) (n : Nat) :
    (rom.toList.drop k).take (n + 1) = rom[k] :: (rom.toList.drop (k + 1)).take n := by
  rw [List.drop_eq_getElem_cons (by simpa using h), List.take_succ_cons, Vector.getElem_toList]

/-- `k + 1` rounds are one round and `k` more. -/
theorem State.afterRounds_succ {s : State} (h : s.ridx.toNat < 12) (k : Nat) :
    s.afterRounds (k + 1) = (s.advance.runRound rom[s.ridx.toNat]).afterRounds k := by
  have hridx : s.ridx + BitVec.ofNat 4 (k + 1) = s.ridx + 1#4 + BitVec.ofNat 4 k := by
    rw [Nat.add_comm k 1, BitVec.ofNat_add, BitVec.add_assoc]
  have hinputs : s.inputs.drop (k + 1) = s.inputs.tail.drop k := by simp
  simp only [State.afterRounds, take_drop_rom h, applyRounds_cons, hridx, hinputs, State.runRound_lanes,
    State.runRound_ridx, State.runRound_inputs, State.advance_lanes, State.advance_ridx, State.advance_inputs,
    toNat_succ_ridx h]
  rfl

/-- As long as there are rounds left and no reset comes, every step is the next round of the schedule. -/
theorem run_eq_afterRounds (k : Nat) {s : State} (hk : s.ridx.toNat + k ≤ 12) (hr : s.NoReset k) :
    run k s = .next (s.afterRounds k) := by
  induction k generalizing s with
  | zero => simp
  | succ k ih =>
    have hactive : s.ridx.toNat < 12 := by omega
    have hstep : step s = .next (s.advance.runRound rom[s.ridx.toNat]) := step_of_active hr.pins_rst hactive
    have hleft : (s.advance.runRound rom[s.ridx.toNat]).ridx.toNat + k ≤ 12 := by
      rw [State.runRound_ridx, State.advance_ridx, toNat_succ_ridx hactive]
      omega
    calc run (k + 1) s = run k (s.advance.runRound rom[s.ridx.toNat]) := run_succ hstep k
      _ = .next ((s.advance.runRound rom[s.ridx.toNat]).afterRounds k) := ih hleft hr.advance
      _ = .next (s.afterRounds (k + 1)) := by rw [State.afterRounds_succ hactive]

/-! ### PERM (R73 to R75) -/

theorem decodeCommand_commandWord_perm (idx : BitVec 4) (data : Word) :
    decodeCommand (commandWord 0b10#2 idx data) = .perm idx := by
  simpa using (decodeCommand_eq_perm_iff _).mpr (opField_commandWord 0b10#2 idx data)

/-- The step that accepts `PERM R` sets the sequencer to `12 - R` and does nothing else (R73). -/
theorem step_of_perm_offer {s : State} {idx : BitVec 4} {data : Word} (hready : s.cmdReady = true)
    (hpins : s.pins = offer (commandWord 0b10#2 idx data)) (hidx : idx.toNat ≤ 12) :
    step s = .next (s.advance.setRidx (12#4 - idx)) := by
  have hevent : nextEvent s = .run (decodeCommand s.pins.cmd) := by
    refine nextEvent_of_offer ?_ hready ?_ <;> rw [hpins] <;> rfl
  have hcmd : decodeCommand s.pins.cmd = .perm idx := by
    rw [hpins]
    exact decodeCommand_commandWord_perm idx data
  rw [step_of_run hevent, hcmd]
  exact execPerm_of_le (s := s.advance) hready hidx

/-- The rounds from `12 - R` to the end of the ROM are the permutation, and leave the sequencer idle (R74, R112). -/
theorem State.afterRounds_setRidx (s : State) {idx : BitVec 4} (hidx : idx.toNat ≤ 12) :
    (s.setRidx (12#4 - idx)).afterRounds idx.toNat =
      { s with lanes := permute idx.toNat s.lanes, ridx := 12#4, inputs := s.inputs.drop idx.toNat } := by
  have hrcs : (rom.toList.drop (12 - idx.toNat)).take idx.toNat = schedule idx.toNat := by
    refine List.take_of_length_le ?_
    rw [List.length_drop, Vector.length_toList]
    omega
  have hridx : 12#4 - idx + BitVec.ofNat 4 idx.toNat = 12#4 := by
    rw [BitVec.ofNat_toNat, BitVec.setWidth_eq, BitVec.sub_add_cancel]
  simp only [State.afterRounds, State.setRidx_lanes, State.setRidx_ridx, State.setRidx_inputs, toNat_startIndex hidx,
    hrcs, hridx, permute]
  rfl

/-- Settles O37: the accepting step starts the sequencer at `12 - R` (`step_of_perm_offer`), and the R steps after it are
the R rounds from there (`run_eq_afterRounds`, by induction on the rounds). -/
theorem permComputesThePermutation : Obligations.PermComputesThePermutation := by
  intro s idx data rest hidx hready hin hrst
  have hpins : s.pins = offer (commandWord 0b10#2 idx data) := by simp [State.pins, hin, offer]
  have hrest : s.advance.inputs = rest := by simp [hin]
  have hleft : (s.advance.setRidx (12#4 - idx)).ridx.toNat + idx.toNat ≤ 12 := by
    rw [State.setRidx_ridx, toNat_startIndex hidx]
    omega
  have hnoReset : (s.advance.setRidx (12#4 - idx)).NoReset idx.toNat := by
    rwa [State.NoReset, State.setRidx_inputs, hrest]
  rw [run_succ (step_of_perm_offer hready hpins hidx), run_eq_afterRounds _ hleft hnoReset,
    State.afterRounds_setRidx _ hidx, hrest, ← s.ridx_of_cmdReady hready]
  rfl

/-- On an idle block the start index of `PERM 0` is the value `ridx` has. -/
theorem State.setRidx_start_zero {s : State} (h : s.ridx = 12#4) : s.setRidx (12#4 - 0#4) = s := by
  rw [BitVec.sub_zero, ← h]
  rfl

theorem permute_zero (x : Lanes) : permute 0 x = x := rfl

/-- Settles O11: `PERM 0` writes to `ridx` the 12 it already has, and the schedule of no rounds is empty. -/
theorem permZeroChangesNothing : Obligations.PermZeroChangesNothing := by
  refine ⟨fun s hready => ⟨?_, fun data hpins => ⟨s.advance, ?_, rfl, ?_, rfl, hready⟩⟩, permute_zero⟩
  · have hexec : exec (.perm 0#4) s = .next (s.setRidx (12#4 - 0#4)) := execPerm_of_le (idx := 0#4) hready (by decide)
    rw [hexec, State.setRidx_start_zero (s.ridx_of_cmdReady hready)]
  · have hidle : s.advance.ridx = 12#4 := s.ridx_of_cmdReady hready
    rw [step_of_perm_offer hready hpins (by decide), State.setRidx_start_zero hidle]
  · exact s.ridx_of_cmdReady hready

end Sys2Proof.Machine

/-! SUPPORT. Proofs about the round function: its rotations are the library's, its lanes are the spec's listing. -/

namespace Sys2Proof.Machine

/-! ### The steps with a rotation, in the library's rotate-left -/

theorem expansion_eq_rotateLeft (p : Fin 4 → Word) (i : Fin 4) :
    expansion p i = (p (i - 1)).rotateLeft 5 ^^^ (p (i - 1)).rotateLeft 14 := by
  rw [expansion, rotl_eq_rotateLeft _ (by decide), rotl_eq_rotateLeft _ (by decide)]

theorem tC_eq_rotateLeft (x : Lanes) (i : Fin 4) : tC x i = (expand x i ^^^ planeC x i).rotateLeft 11 :=
  rotl_eq_rotateLeft _ (by decide)

theorem newB_eq_rotateLeft (x : Lanes) (rc : Word) (i : Fin 4) :
    newB x rc i = (chi (tC x i) (tA x rc i) (tB x i)).rotateLeft 1 :=
  rotl_eq_rotateLeft _ (by decide)

theorem newC_eq_rotateLeft (x : Lanes) (rc : Word) (i : Fin 4) :
    newC x rc i = (chi (tA x rc (i + 2)) (tB x (i + 2)) (tC x (i + 2))).rotateLeft 8 :=
  rotl_eq_rotateLeft _ (by decide)

/-! ### The listing of the seven steps (R91 to R99) -/

/-- Settles O19, in the order of the listing: the expansions are `e0` to `e3` (steps 1 and 2), so the three planes of
intermediate values are `t0` to `t11` (steps 3 to 5; plane B takes the `e` and the lane one column back, R94), and steps 6
and 7 combine these, plane C from two columns on (R98). -/
theorem roundIsTheSevenSteps : Obligations.RoundIsTheSevenSteps := by
  intro x rc p0 p1 p2 p3 e0 e1 e2 e3 t0 t1 t2 t3 t4 t5 t6 t7 t8 t9 t10 t11
  have he0 : expand x 0 = e0 := expansion_eq_rotateLeft (parity x) 0
  have he1 : expand x 1 = e1 := expansion_eq_rotateLeft (parity x) 1
  have he2 : expand x 2 = e2 := expansion_eq_rotateLeft (parity x) 2
  have he3 : expand x 3 = e3 := expansion_eq_rotateLeft (parity x) 3
  have ht0 : tA x rc 0 = t0 := congrArg (· ^^^ x[0] ^^^ rc) he0
  have ht1 : tA x rc 1 = t1 := congrArg (· ^^^ x[1]) he1
  have ht2 : tA x rc 2 = t2 := congrArg (· ^^^ x[2]) he2
  have ht3 : tA x rc 3 = t3 := congrArg (· ^^^ x[3]) he3
  have ht4 : tB x 0 = t4 := congrArg (· ^^^ x[7]) he3
  have ht5 : tB x 1 = t5 := congrArg (· ^^^ x[4]) he0
  have ht6 : tB x 2 = t6 := congrArg (· ^^^ x[5]) he1
  have ht7 : tB x 3 = t7 := congrArg (· ^^^ x[6]) he2
  have ht8 : tC x 0 = t8 := by rw [tC_eq_rotateLeft, he0]; rfl
  have ht9 : tC x 1 = t9 := by rw [tC_eq_rotateLeft, he1]; rfl
  have ht10 : tC x 2 = t10 := by rw [tC_eq_rotateLeft, he2]; rfl
  have ht11 : tC x 3 = t11 := by rw [tC_eq_rotateLeft, he3]; rfl
  simp only [roundFn, newA, newB_eq_rotateLeft, newC_eq_rotateLeft, chi, Fin.reduceAdd, ht0, ht1, ht2, ht3, ht4, ht5,
    ht6, ht7, ht8, ht9, ht10, ht11]

/-- Settles O24, by evaluating the steps on the one state of the example. -/
theorem workedRoundExample : Obligations.WorkedRoundExample := by
  unfold Obligations.WorkedRoundExample
  decide

end Sys2Proof.Machine

/-! SUPPORT. Proofs about the sequencer: its one step, the priority table, and how long it stays busy. -/

namespace Sys2Proof.Machine

/-! ### One step of the sequencer (R111) -/

/-- Settles O31: the step of the active sequencer is one round (`step_of_active`), and `ridx + 1` does not wrap. -/
theorem sequencerStepRunsOneRound : Obligations.SequencerStepRunsOneRound := by
  intro s hk hrst
  have hactive : s.ridx.toNat < 12 := Nat.lt_succ_of_le hk
  exact ⟨_, step_of_active hrst hactive, rfl, toNat_succ_ridx hactive, rfl, rfl, rfl, rfl⟩

/-! ### The priority table (R117) -/

/-- Under the invariants a block that is not idle has a round left. -/
theorem State.Inv.active_of_ne_idle {s : State} (hs : s.Inv) (h : s.ridx ≠ 12#4) : s.ridx.toNat < 12 := by
  obtain ⟨hle, -⟩ := hs
  exact Nat.lt_of_le_of_ne hle (mt (ridx_eq_idle_iff _).mpr h)

/-- An idle block to which no reset comes does nothing when it is halted or nothing is offered (priorities 3 and 5). -/
theorem step_of_idle {s : State} (hr : s.pins.rst = false) (hidle : s.ridx = 12#4)
    (h : s.err ≠ .none ∨ s.pins.cmdValid = false) : step s = .next s.advance := by
  refine step_of_nothing ?_
  rcases h with herr | hvalid
  · simp [nextEvent, hr, State.busy, hidle, State.halted, herr]
  · simp [nextEvent, hr, State.busy, hidle, hvalid]

/-- A command offered to a ready block without reset is accepted (R51). -/
theorem State.accepting_of_offer {s : State} (hr : s.pins.rst = false) (hready : s.cmdReady = true)
    (hvalid : s.pins.cmdValid = true) : s.accepting = true := by
  simp [State.accepting, hr, hready, hvalid]

/-- Settles O32, one priority of R117 after the other. -/
theorem stepFollowsThePriorityTable : Obligations.StepFollowsThePriorityTable := by
  intro s hs
  refine ⟨fun hrst => ?reset, fun hr hbusy => ?round, fun hr hidle herr => ?halted,
    fun hr hidle herr hvalid => ?accepted, fun hr hidle _ hvalid => ?unoffered⟩
  case reset => exact ⟨_, step_of_rst hrst, rfl, rfl⟩
  case round =>
    have hactive : s.ridx.toNat < 12 := hs.active_of_ne_idle hbusy
    exact ⟨_, fetchRom_of_lt hactive, step_of_active hr hactive⟩
  case halted => exact step_of_idle hr hidle (.inl herr)
  case accepted =>
    have hready : s.cmdReady = true := s.cmdReady_iff.mpr ⟨hidle, herr⟩
    exact ⟨State.accepting_of_offer hr hready hvalid, step_of_run (nextEvent_of_offer hr hready hvalid)⟩
  case unoffered => exact step_of_idle hr hidle (.inr hvalid)

/-! ### How long the sequencer is active (R114, R116) -/

/-- Up to the last round `ridx` counts the rounds without wrapping. -/
theorem State.toNat_afterRounds_ridx {s : State} {k : Nat} (hk : s.ridx.toNat + k ≤ 12) :
    (s.afterRounds k).ridx.toNat = s.ridx.toNat + k := by
  simp only [State.afterRounds, BitVec.toNat_add, BitVec.toNat_ofNat]
  omega

/-- No reset at the next `n` edges is none at fewer. -/
theorem State.NoReset.mono {s : State} {k n : Nat} (h : s.NoReset n) (hkn : k ≤ n) : s.NoReset k :=
  fun p hp => h p ((List.take_prefix_take_left hkn).subset hp)

/-- Settles O39: the `k`-th step is the `k`-th round (`run_eq_afterRounds`), so `ridx` first reaches 12
after `12 - ridx` of them. -/
theorem sequencerStopsWithinTwelveSteps : Obligations.SequencerStopsWithinTwelveSteps := by
  intro s hs hnoReset
  obtain ⟨hridx, -⟩ := hs
  refine ⟨?stops, fun k hk => ?busy⟩
  case stops =>
    have hend : s.ridx.toNat + (12 - s.ridx.toNat) ≤ 12 := by omega
    refine ⟨_, run_eq_afterRounds _ hend hnoReset, ?_, rfl, rfl⟩
    rw [ridx_eq_idle_iff, State.toNat_afterRounds_ridx hend]
    omega
  case busy =>
    have hleft : s.ridx.toNat + k ≤ 12 := by omega
    refine ⟨_, run_eq_afterRounds k hleft (hnoReset.mono (Nat.le_of_lt hk)), ?_⟩
    rw [State.busy_iff, ne_eq, ridx_eq_idle_iff, State.toNat_afterRounds_ridx hleft]
    omega

/-- The block `k` steps after the acceptance of `PERM R`, whatever is offered meanwhile: `k` rounds from `12 - R` on. -/
theorem run_of_perm_offer {s : State} {idx : BitVec 4} {data : Word} {k : Nat} (hready : s.cmdReady = true)
    (hpins : s.pins = offer (commandWord 0b10#2 idx data)) (hidx : idx.toNat ≤ 12) (hk : k ≤ idx.toNat)
    (hnoReset : s.advance.NoReset k) : run (k + 1) s = .next ((s.advance.setRidx (12#4 - idx)).afterRounds k) := by
  rw [run_succ (step_of_perm_offer hready hpins hidx)]
  refine run_eq_afterRounds k ?_ hnoReset
  rw [State.setRidx_ridx, toNat_startIndex hidx]
  omega

/-- A block that is not halted is ready exactly when idle. -/
theorem State.cmdReady_of_unhalted {s : State} (herr : s.err = .none) : s.cmdReady = decide (s.ridx = 12#4) := by
  rw [Bool.eq_iff_iff, s.cmdReady_iff, decide_eq_true_iff, and_iff_left herr]

/-- STATUS of a block that is not halted shows BUSY alone (R17). -/
theorem State.status_of_unhalted {s : State} (herr : s.err = .none) :
    s.status = if s.ridx = 12#4 then 0b000#3 else 0b001#3 := by
  by_cases hidle : s.ridx = 12#4
  · simp [State.status, State.busy, herr, hidle, ErrCode.code]
  · simp [State.status, State.busy, herr, hidle, ErrCode.code]

/-- Settles O38: `k` steps after the acceptance the block has run `k` rounds from `12 - R` on (`run_of_perm_offer`), so
`ridx` is 12, and the block ready, exactly when `k` is R. -/
theorem permIsBusyForExactlyRSteps : Obligations.PermIsBusyForExactlyRSteps := by
  intro s idx data rest k hidx hk hready hin hrst
  have hpins : s.pins = offer (commandWord 0b10#2 idx data) := by simp [State.pins, hin, offer]
  have hnoReset : s.advance.NoReset k := by
    rwa [State.NoReset, State.advance_inputs, hin, List.tail_cons]
  have hstart : (s.advance.setRidx (12#4 - idx)).ridx.toNat = 12 - idx.toNat := toNat_startIndex hidx
  have hridx : ((s.advance.setRidx (12#4 - idx)).afterRounds k).ridx.toNat = 12 - idx.toNat + k := by
    rw [State.toNat_afterRounds_ridx (by omega), hstart]
  have herr : ((s.advance.setRidx (12#4 - idx)).afterRounds k).err = .none := (s.cmdReady_iff.mp hready).2
  have hidle : ((s.advance.setRidx (12#4 - idx)).afterRounds k).ridx = 12#4 ↔ k = idx.toNat := by
    rw [ridx_eq_idle_iff, hridx]
    omega
  refine ⟨_, run_of_perm_offer hready hpins hidx hk hnoReset, hridx, ?lanes, ?ready, ?status⟩
  case lanes => simp only [State.afterRounds, hstart]; rfl
  case ready => simp only [State.cmdReady_of_unhalted herr, hidle]
  case status => simp only [State.status_of_unhalted herr, hidle]

end Sys2Proof.Machine

/-! SUPPORT. Proofs about faults: what raises which code, fault entry, and the halted block. -/

namespace Sys2Proof.Machine

/-! ### The halted block (R130) -/

theorem State.halted_iff (s : State) : s.halted = true ↔ s.err ≠ .none := by
  simp [State.halted]

theorem State.cmdReady_of_halted {s : State} (herr : s.err ≠ .none) : s.cmdReady = false :=
  Bool.eq_false_iff.mpr fun hready => herr (s.cmdReady_iff.mp hready).2

/-- A block that is not ready accepts nothing, whatever is offered (R131). -/
theorem State.accepting_of_not_ready {s : State} (h : s.cmdReady = false) : s.accepting = false := by
  simp [State.accepting, h]

/-- An idle halted block only lets the edges pass until reset. -/
theorem run_of_halted (n : Nat) {s : State} (hidle : s.ridx = 12#4) (herr : s.err ≠ .none) (hr : s.NoReset n) :
    run n s = .next { s with inputs := s.inputs.drop n } := by
  induction n generalizing s with
  | zero => rfl
  | succ n ih =>
    calc run (n + 1) s = run n s.advance := run_succ (step_of_idle hr.pins_rst hidle (.inl herr)) n
      _ = .next { s.advance with inputs := s.advance.inputs.drop n } := ih hidle herr hr.advance
      _ = .next { s with inputs := s.inputs.drop (n + 1) } := by rw [State.advance_inputs, List.drop_tail]; rfl

/-- Settles O45: under the invariants a halted block is idle, and so every step is `step_of_idle` (`run_of_halted`, by
induction on the steps). -/
theorem haltedBlockStaysHalted : Obligations.HaltedBlockStaysHalted := by
  intro n s hs herr hr
  obtain ⟨-, hhalted⟩ := hs
  have hidle : s.ridx = 12#4 := hhalted herr
  have hnotReady : s.cmdReady = false := State.cmdReady_of_halted herr
  have hnotBusy : s.busy = false := by simp [State.busy, hidle]
  exact ⟨hnotReady, State.accepting_of_not_ready hnotReady, hnotBusy, s.status_extractLsb'_err,
    run_of_halted n hidle herr hr⟩

/-! ### Fault entry (R125 to R129) -/

/-- The table of R125: which instruction raises which code. -/
inductive Raises : Instr → ErrCode → Prop where
  | perm {idx : BitVec 4} (h : 12 < idx.toNat) : Raises (.perm idx) .roundCountRange
  | rdl {idx : BitVec 4} (h : 11 < idx.toNat) : Raises (.rdl idx) .laneIndexRange
  | wrl {idx : BitVec 4} (h : 11 < idx.toNat) (data : Word) : Raises (.wrl idx data) .laneIndexRange
  | reserved : Raises .reserved .reservedOp

theorem Raises.code_ne_none {i : Instr} {c : ErrCode} (h : Raises i c) : c ≠ .none := by
  cases h with
  | perm => decide
  | rdl => decide
  | wrl => decide
  | reserved => decide

/-- On a ready block an instruction of the table raises its code and does nothing else. -/
theorem Raises.exec_eq {i : Instr} {c : ErrCode} (h : Raises i c) {s : State} (hready : s.cmdReady = true) :
    exec i s = .next (s.raise c) := by
  cases h with
  | perm hidx => exact execPerm_of_gt hready hidx
  | rdl hidx => exact (execRdl_of_ready hready _).trans (congrArg _ (withLane_of_ge hidx s _))
  | wrl hidx data => exact (execWrl_of_ready hready _ data).trans (congrArg _ (withLane_of_ge hidx s _))
  | reserved => exact execReserved_of_ready hready

/-- While an instruction of the table is offered no response is driven. -/
theorem Raises.rsp_eq_none {s : State} {c : ErrCode} (h : Raises (decodeCommand s.pins.cmd) c) : s.rsp = none := by
  generalize hi : decodeCommand s.pins.cmd = i at h
  cases h with
  | perm => simp [State.rsp, hi]
  | rdl hidx => simp [State.rsp, hi, laneIndex?_of_ge hidx]
  | wrl => simp [State.rsp, hi]
  | reserved => simp [State.rsp, hi]

/-- The step that accepts an instruction of the table raises its code and does nothing else. -/
theorem Raises.step_eq {s : State} {w : CommandWord} {c : ErrCode} (h : Raises (decodeCommand w) c)
    (hready : s.cmdReady = true) (hpins : s.pins = offer w) : step s = .next (s.advance.raise c) := by
  have hevent : nextEvent s = .run (decodeCommand s.pins.cmd) := by
    refine nextEvent_of_offer ?_ hready ?_ <;> rw [hpins] <;> rfl
  rw [step_of_run hevent, hpins]
  exact h.exec_eq (s := s.advance) hready

/-- A raised fault halts the block. -/
theorem State.raise_halts (s : State) {c : ErrCode} (hc : c ≠ .none) :
    (s.raise c).halted = true ∧ (s.raise c).cmdReady = false :=
  ⟨(State.halted_iff _).mpr hc, State.cmdReady_of_halted hc⟩

/-! ### The faulting command words -/

theorem decodeCommand_commandWord_rdl (idx : BitVec 4) (data : Word) :
    decodeCommand (commandWord 0b00#2 idx data) = .rdl idx := by
  simpa using (decodeCommand_eq_rdl_iff _).mpr (opField_commandWord 0b00#2 idx data)

theorem decodeCommand_commandWord_wrl (idx : BitVec 4) (data : Word) :
    decodeCommand (commandWord 0b01#2 idx data) = .wrl idx data := by
  simpa using (decodeCommand_eq_wrl_iff _).mpr (opField_commandWord 0b01#2 idx data)

theorem decodeCommand_commandWord_reserved (idx : BitVec 4) (data : Word) :
    decodeCommand (commandWord 0b11#2 idx data) = .reserved := by
  simp [decodeCommand]

/-- The three conditions of R125 on the fields of a word are the table on the decoded instruction. -/
theorem raises_decodeCommand_commandWord {op : BitVec 2} {idx : BitVec 4} {c : ErrCode} (data : Word)
    (h : (op = 0b10#2 ∧ 12 < idx.toNat ∧ c = .roundCountRange) ∨
      ((op = 0b00#2 ∨ op = 0b01#2) ∧ 11 < idx.toNat ∧ c = .laneIndexRange) ∨ (op = 0b11#2 ∧ c = .reservedOp)) :
    Raises (decodeCommand (commandWord op idx data)) c := by
  obtain ⟨rfl, hidx, rfl⟩ | ⟨rfl | rfl, hidx, rfl⟩ | ⟨rfl, rfl⟩ := h
  · exact decodeCommand_commandWord_perm idx data ▸ .perm hidx
  · exact decodeCommand_commandWord_rdl idx data ▸ .rdl hidx
  · exact decodeCommand_commandWord_wrl idx data ▸ .wrl hidx data
  · exact decodeCommand_commandWord_reserved idx data ▸ .reserved

/-- Settles O44: the accepting step raises the code and does nothing else (`Raises.step_eq`), and the block it leaves is
idle and halted, so the steps after it do nothing (`run_of_halted`, by induction on the steps). -/
theorem faultingCommandHaltsForGood : Obligations.FaultingCommandHaltsForGood := by
  intro s op idx data c rest n hready hfault hin hrst
  have hraises : Raises (decodeCommand (commandWord op idx data)) c := raises_decodeCommand_commandWord data hfault
  have hpins : s.pins = offer (commandWord op idx data) := by simp [State.pins, hin, offer]
  have hrest : (s.advance.raise c).inputs = rest := by simp [hin]
  have hidle : (s.advance.raise c).ridx = 12#4 := s.ridx_of_cmdReady hready
  have hnoReset : (s.advance.raise c).NoReset n := by rwa [State.NoReset, hrest]
  refine ⟨Raises.rsp_eq_none (c := c) (by rwa [hpins]), ?_⟩
  rw [run_succ (hraises.step_eq hready hpins), run_of_halted n hidle hraises.code_ne_none hnoReset, hrest]
  rfl

/-- Settles O12: both commands are in the table with code 2. -/
theorem laneIndexAboveElevenFaults : Obligations.LaneIndexAboveElevenFaults := by
  intro s idx data hidx hready
  obtain ⟨hhalted, hnotReady⟩ := s.raise_halts (c := .laneIndexRange) (by decide)
  exact ⟨s.raise .laneIndexRange, (Raises.rdl hidx).exec_eq hready, (Raises.wrl hidx data).exec_eq hready, rfl, rfl,
    hhalted, hnotReady⟩

/-- Settles O14: every word with op 3 decodes to the reserved instruction, which is in the table with code 3. -/
theorem reservedOpFaults : Obligations.ReservedOpFaults := by
  intro s idx data hready
  have hdecode : decodeCommand (commandWord 0b11#2 idx data) = .reserved := decodeCommand_commandWord_reserved idx data
  have hraises : Raises (decodeCommand (commandWord 0b11#2 idx data)) .reservedOp := hdecode ▸ .reserved
  refine ⟨hraises.exec_eq hready, Raises.reserved.exec_eq hready, fun hpins => ?_⟩
  obtain ⟨hhalted, hnotReady⟩ := s.advance.raise_halts hraises.code_ne_none
  exact ⟨s.advance.raise .reservedOp, hraises.step_eq hready hpins, rfl, rfl, s.ridx_of_cmdReady hready, rfl, hhalted,
    hnotReady⟩

end Sys2Proof.Machine

/-! SUPPORT. Proofs about a reset step: what the pins show during it and after it. -/

namespace Sys2Proof.Machine

/-! ### Steps without a response (R51, R156) -/

/-- No command is accepted at an edge with `rst` asserted (R117). -/
theorem State.accepting_of_rst {s : State} (h : s.pins.rst = true) : s.accepting = false := by
  simp [State.accepting, h]

/-- No command is accepted when none is offered (R51). -/
theorem State.accepting_of_unoffered {s : State} (h : s.pins.cmdValid = false) : s.accepting = false := by
  simp [State.accepting, h]

/-- `rsp_valid` is 0 in a step that accepts no command. -/
theorem State.rsp_of_not_accepting {s : State} (h : s.accepting = false) : s.rsp = none := by
  simp [State.rsp, h]

/-! ### The block after a reset step (R151) -/

/-- `cmd_ready` is 1 after a reset, whatever the block was doing. -/
@[simp] theorem State.resetBlock_cmdReady (s : State) : s.resetBlock.cmdReady = true :=
  s.resetBlock.cmdReady_iff.mpr ⟨rfl, rfl⟩

/-- STATUS is 0 after a reset. -/
@[simp] theorem State.resetBlock_status (s : State) : s.resetBlock.status = 0b000#3 := by
  rw [State.status_of_unhalted s.resetBlock_err, if_pos s.resetBlock_ridx]

/-- Settles O52: the next state is `s.advance.resetBlock` (`step_of_rst`), which is idle and unhalted, and neither the
reset step itself nor an edge with nothing offered accepts a command, so neither drives a response. -/
theorem resetStepMakesTheBlockReady : Obligations.ResetStepMakesTheBlockReady := by
  intro s hrst
  refine ⟨State.rsp_of_not_accepting (State.accepting_of_rst hrst), s.advance.resetBlock, step_of_rst hrst, rfl, rfl, rfl,
    s.advance.resetBlock_cmdReady, s.advance.resetBlock_status, rfl, fun hunoffered => ?_⟩
  exact State.rsp_of_not_accepting (State.accepting_of_unoffered hunoffered)

end Sys2Proof.Machine

/-! SUPPORT. Proofs about the decoder, the encoder and the assembler as each other's inverses. -/

namespace Sys2Proof

/-! ### Decode and encode (R52 to R57, R60) -/

/-- Settles O2: a word's `op` is the one it was built with, and the fields it decodes to are those it was built from. -/
theorem ignoredBitsDoNotChangeTheInstruction : Obligations.IgnoredBitsDoNotChangeTheInstruction :=
  fun idx data =>
    ⟨Machine.decodeCommand_commandWord_rdl idx data, Machine.decodeCommand_commandWord_wrl idx data,
      Machine.decodeCommand_commandWord_perm idx data, Machine.decodeCommand_commandWord_reserved idx data⟩

theorem decode_encode (i : Instr) : decode (encode i) = i := by
  cases i with
  | rdl idx => exact Machine.decodeCommand_commandWord_rdl idx 0#32
  | wrl idx data => exact Machine.decodeCommand_commandWord_wrl idx data
  | perm idx => exact Machine.decodeCommand_commandWord_perm idx 0#32
  | reserved => exact Machine.decodeCommand_commandWord_reserved 0#4 0#32
  | round rc => rfl

/-- A word is found again from its width and its number. -/
theorem codeWordOf_width_toNat (c : CodeWord) : codeWordOf c.width c.toNat = .ok c := by
  cases c with
  | command w => simp [codeWordOf, CodeWord.width, CodeWord.toNat, w.isLt]
  | romWord w => simp [codeWordOf, CodeWord.width, CodeWord.toNat, w.isLt]

theorem decodeTableWord_width_toNat (c : CodeWord) : decodeTableWord c.width c.toNat = some (decode c) := by
  simp only [decodeTableWord, codeWordOf_width_toNat]

/-- Settles O3, by cases on the instruction; as a number the word is read back first. -/
theorem decodeInvertsEncode : Obligations.DecodeInvertsEncode :=
  fun i => ⟨decode_encode i, (decodeTableWord_width_toNat (encode i)).trans (congrArg some (decode_encode i))⟩

/-- A word is built from given fields exactly when these are its fields. -/
theorem commandWord_eq_iff (op : BitVec 2) (idx : BitVec 4) (data : Word) (w : CommandWord) :
    commandWord op idx data = w ↔ opField w = op ∧ idxField w = idx ∧ dataField w = data := by
  constructor
  · rintro rfl
    exact ⟨opField_commandWord .., idxField_commandWord .., dataField_commandWord ..⟩
  · rintro ⟨rfl, rfl, rfl⟩
    exact commandWord_fields w

/-- Settles O4: for each `op` the encoder puts zeros in the fields that the instruction does not keep, and
`commandWord_eq_iff` says when these are the word's own. -/
theorem encodeInvertsDecodeOnCanonicalWords : Obligations.EncodeInvertsDecodeOnCanonicalWords := by
  intro w
  rcases decodeCommand_cases w with ⟨hop, hdec⟩ | ⟨hop, hdec⟩ | ⟨hop, hdec⟩ | ⟨hop, hdec⟩ <;>
    simp only [hdec, encode, CodeWord.command.injEq, commandWord_eq_iff, hop]
  case inl => simp
  case inr.inl => simp
  case inr.inr.inl => simp
  case inr.inr.inr => simp [and_comm]

/-- Settles O5, by computing the decoder on the eight numbers. -/
theorem writtenOutWordsDecode : Obligations.WrittenOutWordsDecode := by
  unfold Obligations.WrittenOutWordsDecode
  decide

end Sys2Proof

namespace Sys2Proof.Machine

/-! ### The assembler (R63) -/

theorem toNat_commandWord (op : BitVec 2) (idx : BitVec 4) (data : Word) :
    (commandWord op idx data).toNat = op.toNat * 2 ^ 36 + idx.toNat * 2 ^ 32 + data.toNat := by
  have hop := toNat_opField (commandWord op idx data)
  have hidx := toNat_idxField (commandWord op idx data)
  have hdata := congrArg BitVec.toNat (dataField_eq_ofNat (commandWord op idx data))
  rw [opField_commandWord] at hop
  rw [idxField_commandWord] at hidx
  rw [dataField_commandWord, BitVec.toNat_ofNat] at hdata
  omega

theorem assemble_rdl {i : Nat} (h : i ≤ 11) :
    assemble (.rdl i) = some (commandWord 0b00#2 (BitVec.ofNat 4 i) 0#32) := if_pos h

theorem assemble_wrl {i d : Nat} (hi : i ≤ 11) (hd : d < 2 ^ 32) :
    assemble (.wrl i d) = some (commandWord 0b01#2 (BitVec.ofNat 4 i) (BitVec.ofNat 32 d)) := if_pos ⟨hi, hd⟩

theorem assemble_perm {r : Nat} (h : r ≤ 12) :
    assemble (.perm r) = some (commandWord 0b10#2 (BitVec.ofNat 4 r) 0#32) := if_pos h

theorem assemble_rdl_isSome_iff (i : Nat) : (∃ w, assemble (.rdl i) = some w) ↔ i ≤ 11 := by
  by_cases h : i ≤ 11 <;> simp [assemble, h]

theorem assemble_wrl_isSome_iff (i d : Nat) : (∃ w, assemble (.wrl i d) = some w) ↔ i ≤ 11 ∧ d < 2 ^ 32 := by
  by_cases h : i ≤ 11 ∧ d < 2 ^ 32 <;> simp [assemble, h]

theorem assemble_perm_isSome_iff (r : Nat) : (∃ w, assemble (.perm r) = some w) ↔ r ≤ 12 := by
  by_cases h : r ≤ 12 <;> simp [assemble, h]

/-- A number that fits the `idx` field is that field's value. -/
theorem toNat_ofNat_idx {i : Nat} (h : i ≤ 12) : (BitVec.ofNat 4 i).toNat = i :=
  (BitVec.toNat_ofNat i 4).trans (Nat.mod_eq_of_lt (by omega))

/-- Settles O7: an operand the assembler takes fits its field, so the word's number is read off `toNat_commandWord` and
the decoder gives the operand back. -/
theorem assemblerWritesCanonicalLegalWords : Obligations.AssemblerWritesCanonicalLegalWords := by
  refine ⟨assemble_rdl_isSome_iff, assemble_wrl_isSome_iff, assemble_perm_isSome_iff, fun i w h => ?rdl,
    fun i d w h => ?wrl, fun r w h => ?perm, fun w h => if_pos h⟩
  case rdl =>
    have hi : i ≤ 11 := (assemble_rdl_isSome_iff i).mp ⟨w, h⟩
    have hidx : (BitVec.ofNat 4 i).toNat = i := toNat_ofNat_idx (by omega)
    obtain rfl : commandWord 0b00#2 (BitVec.ofNat 4 i) 0#32 = w := Option.some.inj ((assemble_rdl hi).symm.trans h)
    rw [decodeCommand_commandWord_rdl, toNat_commandWord, hidx]
    exact ⟨rfl, by simp, by simpa only [Instr.wellFormed, hidx, decide_eq_true_iff]⟩
  case wrl =>
    obtain ⟨hi, hd⟩ : i ≤ 11 ∧ d < 2 ^ 32 := (assemble_wrl_isSome_iff i d).mp ⟨w, h⟩
    have hidx : (BitVec.ofNat 4 i).toNat = i := toNat_ofNat_idx (by omega)
    have hdata : (BitVec.ofNat 32 d).toNat = d := (BitVec.toNat_ofNat d 32).trans (Nat.mod_eq_of_lt hd)
    obtain rfl : commandWord 0b01#2 (BitVec.ofNat 4 i) (BitVec.ofNat 32 d) = w :=
      Option.some.inj ((assemble_wrl hi hd).symm.trans h)
    rw [decodeCommand_commandWord_wrl, toNat_commandWord, hidx, hdata]
    exact ⟨rfl, by simp, by simpa only [Instr.wellFormed, hidx, decide_eq_true_iff]⟩
  case perm =>
    have hr : r ≤ 12 := (assemble_perm_isSome_iff r).mp ⟨w, h⟩
    have hidx : (BitVec.ofNat 4 r).toNat = r := toNat_ofNat_idx hr
    obtain rfl : commandWord 0b10#2 (BitVec.ofNat 4 r) 0#32 = w := Option.some.inj ((assemble_perm hr).symm.trans h)
    rw [decodeCommand_commandWord_perm, toNat_commandWord, hidx]
    exact ⟨rfl, by simp, by simpa only [Instr.wellFormed, hidx, decide_eq_true_iff]⟩

end Sys2Proof.Machine

/-! SUPPORT. Proofs about the host commands: their effect on a ready block, their frame, reads and writes in a row. -/

namespace Sys2Proof.Machine

/-! ### One command (R70 to R73, R126) -/

theorem exec_rdl_of_lt {s : State} (hr : s.cmdReady = true) {idx : BitVec 4} (h : idx.toNat < 12) :
    exec (.rdl idx) s = .next (s.respond (s.readLane ⟨idx.toNat, h⟩)) :=
  (execRdl_of_ready hr idx).trans (congrArg _ (withLane_of_lt h s _))

theorem exec_wrl_of_lt {s : State} (hr : s.cmdReady = true) {idx : BitVec 4} (h : idx.toNat < 12) (data : Word) :
    exec (.wrl idx data) s = .next (s.writeLane ⟨idx.toNat, h⟩ data) :=
  (execWrl_of_ready hr idx data).trans (congrArg _ (withLane_of_lt h s _))

/-- Settles O8: `exec_rdl_of_lt`, with the answer written out. -/
theorem rdlAnswersTheLane : Obligations.RdlAnswersTheLane :=
  fun _ _ h hr => exec_rdl_of_lt hr h

/-- What a lane holds after a write of any lane. -/
theorem State.readLane_writeLane (s : State) (i j : Fin 12) (v : Word) :
    (s.writeLane i v).readLane j = if j = i then v else s.readLane j := by
  split
  · next h => rw [h, State.readLane_writeLane_self]
  · next h => exact s.readLane_writeLane_ne (Ne.symm h) v

/-- Settles O9: the next state is `State.writeLane` (`exec_wrl_of_lt`), which writes one lane and no other field. -/
theorem wrlWritesExactlyOneLane : Obligations.WrlWritesExactlyOneLane := by
  intro s idx data h hr
  refine ⟨_, exec_wrl_of_lt hr h data, fun j => ?_, rfl, rfl, rfl, rfl, rfl⟩
  refine (s.readLane_writeLane ⟨idx.toNat, h⟩ j data).trans ?_
  simp only [Fin.ext_iff]
  rfl

/-- Settles O10: the next state is `State.setRidx` at `12 - R`, which does not wrap. -/
theorem permLoadsTwelveMinusR : Obligations.PermLoadsTwelveMinusR :=
  fun _ _ h hr => ⟨_, execPerm_of_le hr h, toNat_startIndex h, rfl, rfl, rfl, rfl, rfl⟩

/-- Settles O13: PERM above 12 is in the table of R125 with code 1, and a raised fault halts the block. -/
theorem roundCountAboveTwelveFaults : Obligations.RoundCountAboveTwelveFaults := by
  intro s idx hidx hready
  obtain ⟨hhalted, hnotReady⟩ := s.raise_halts (c := .roundCountRange) (by decide)
  exact ⟨s.raise .roundCountRange, (Raises.perm hidx).exec_eq hready, rfl, s.ridx_of_cmdReady hready, rfl, hhalted,
    hnotReady⟩

/-- A command that is not accepted leaves no trace (R70); ROUND is the only instruction that is no command. -/
theorem exec_of_not_ready {s : State} (hr : s.cmdReady = false) {i : Instr} (hi : ∀ rc, i ≠ .round rc) :
    exec i s = .next s := by
  cases i with
  | rdl idx => simp only [exec, execRdl, accept_of_not_ready hr]
  | wrl idx data => simp only [exec, execWrl, accept_of_not_ready hr]
  | perm idx => simp only [exec, execPerm, accept_of_not_ready hr]
  | reserved => simp only [exec, execReserved, accept_of_not_ready hr]
  | round rc => exact absurd rfl (hi rc)

/-- No command word decodes to a ROUND. -/
theorem decodeCommand_ne_round (w : CommandWord) (rc : Word) : decodeCommand w ≠ .round rc := by
  rcases decodeCommand_cases w with ⟨-, hdec⟩ | ⟨-, hdec⟩ | ⟨-, hdec⟩ | ⟨-, hdec⟩ <;> simp [hdec]

/-- Settles O15: what a command word decodes to is a command. -/
theorem unacceptedCommandLeavesNoTrace : Obligations.UnacceptedCommandLeavesNoTrace :=
  fun _ w hr => exec_of_not_ready hr (decodeCommand_ne_round w)

/-! ### Two commands in a row (R37, R40) -/

theorem State.writeLane_writeLane (s : State) (i : Fin 12) (v w : Word) :
    (s.writeLane i v).writeLane i w = s.writeLane i w := by
  simp [State.writeLane]

theorem State.respond_respond (s : State) (v w : Word) :
    (s.respond v).respond w = { s.respond v with responses := s.responses ++ [v, w] } := by
  simp [State.respond]

/-- Settles O16: a second write of the same word is the first (`State.writeLane_writeLane`), and an answer changes no
lane, so the second read answers what the first did. -/
theorem readsAndWritesAreIdempotent : Obligations.ReadsAndWritesAreIdempotent := by
  intro s t idx data hidx hr
  constructor
  · rw [exec_wrl_of_lt hr hidx]
    rintro ⟨⟩
    rw [exec_wrl_of_lt (s := s.writeLane _ data) hr hidx, State.writeLane_writeLane]
  · rw [exec_rdl_of_lt hr hidx]
    rintro ⟨⟩
    refine ⟨s.readLane ⟨idx.toNat, hidx⟩, rfl, rfl, ?_⟩
    rw [exec_rdl_of_lt (s := s.respond _) hr hidx]
    exact congrArg _ (s.respond_respond _ _)

/-- Settles O17: the read answers the lane of the written state (`State.readLane_writeLane`). -/
theorem readAfterWriteAnswersTheData : Obligations.ReadAfterWriteAnswersTheData := by
  intro s t i j data hi hj hr
  rw [exec_wrl_of_lt hr hi]
  rintro ⟨⟩
  have hread : (s.writeLane ⟨i.toNat, hi⟩ data).readLane ⟨j.toNat, hj⟩ =
      if j = i then data else s.lanes[j.toNat] := by
    rw [State.readLane_writeLane]
    simp only [Fin.mk.injEq, BitVec.toNat_inj]
    rfl
  rw [exec_rdl_of_lt (s := s.writeLane _ data) hr hj, hread]
  rfl

/-! ### What each command leaves unchanged (R71 to R73, R128, R129) -/

/-- Everything an RDL can do. -/
theorem exec_rdl_cases {idx : BitVec 4} {s t : State} (h : exec (.rdl idx) s = .next t) :
    t = s ∨ (idx.toNat < 12 ∧ ∃ v, t = s.respond v) ∨ (12 ≤ idx.toNat ∧ t = s.raise .laneIndexRange) := by
  rcases exec_next_cases h with rfl | ⟨-, _, j, ⟨⟩, hj, rfl⟩ | ⟨-, _, _, _, ⟨⟩, -⟩ | ⟨-, _, ⟨⟩, -⟩ |
    ⟨-, ⟨_, ⟨⟩, hi⟩, rfl⟩ | ⟨-, ⟨_, _, ⟨⟩, -⟩, -⟩ | ⟨-, ⟨_, ⟨⟩, -⟩, -⟩ | ⟨-, ⟨⟩, -⟩ | ⟨-, _, ⟨⟩, -⟩
  · exact .inl rfl
  · exact .inr (.inl ⟨hj ▸ j.isLt, _, rfl⟩)
  · exact .inr (.inr ⟨hi, rfl⟩)

/-- Everything a WRL can do. -/
theorem exec_wrl_cases {idx : BitVec 4} {data : Word} {s t : State} (h : exec (.wrl idx data) s = .next t) :
    t = s ∨ (∃ j : Fin 12, idx.toNat = j.val ∧ t = s.writeLane j data) ∨
      (12 ≤ idx.toNat ∧ t = s.raise .laneIndexRange) := by
  rcases exec_next_cases h with rfl | ⟨-, _, _, ⟨⟩, -⟩ | ⟨-, _, _, j, ⟨⟩, hj, rfl⟩ | ⟨-, _, ⟨⟩, -⟩ |
    ⟨-, ⟨_, ⟨⟩, -⟩, -⟩ | ⟨-, ⟨_, _, ⟨⟩, hi⟩, rfl⟩ | ⟨-, ⟨_, ⟨⟩, -⟩, -⟩ | ⟨-, ⟨⟩, -⟩ | ⟨-, _, ⟨⟩, -⟩
  · exact .inl rfl
  · exact .inr (.inl ⟨j, hj, rfl⟩)
  · exact .inr (.inr ⟨hi, rfl⟩)

/-- Everything a PERM can do. -/
theorem exec_perm_cases {idx : BitVec 4} {s t : State} (h : exec (.perm idx) s = .next t) :
    t = s ∨ (idx.toNat ≤ 12 ∧ t = s.setRidx (12#4 - idx)) ∨ (12 < idx.toNat ∧ t = s.raise .roundCountRange) := by
  rcases exec_next_cases h with rfl | ⟨-, _, _, ⟨⟩, -⟩ | ⟨-, _, _, _, ⟨⟩, -⟩ | ⟨-, _, ⟨⟩, hi, rfl⟩ |
    ⟨-, ⟨_, ⟨⟩, -⟩, -⟩ | ⟨-, ⟨_, _, ⟨⟩, -⟩, -⟩ | ⟨-, ⟨_, ⟨⟩, hi⟩, rfl⟩ | ⟨-, ⟨⟩, -⟩ | ⟨-, _, ⟨⟩, -⟩
  · exact .inl rfl
  · exact .inr (.inl ⟨hi, rfl⟩)
  · exact .inr (.inr ⟨hi, rfl⟩)

/-- Everything a reserved word can do. -/
theorem exec_reserved_cases {s t : State} (h : exec .reserved s = .next t) : t = s ∨ t = s.raise .reservedOp := by
  rcases exec_next_cases h with rfl | ⟨-, _, _, ⟨⟩, -⟩ | ⟨-, _, _, _, ⟨⟩, -⟩ | ⟨-, _, ⟨⟩, -⟩ | ⟨-, ⟨_, ⟨⟩, -⟩, -⟩ |
    ⟨-, ⟨_, _, ⟨⟩, -⟩, -⟩ | ⟨-, ⟨_, ⟨⟩, -⟩, -⟩ | ⟨-, -, rfl⟩ | ⟨-, _, ⟨⟩, -⟩
  · exact .inl rfl
  · exact .inr rfl

/-- Settles O56: in each case of each command the named update keeps the fields by its definition, and a fault entry is
excluded where ERR is to be kept. -/
theorem commandsFrame : Obligations.CommandsFrame := by
  intro s t idx data
  refine ⟨fun h => ?rdl, fun h => ?wrl, fun h => ?perm, fun h => ?reserved⟩
  case rdl =>
    rcases exec_rdl_cases h with rfl | ⟨hlt, _, rfl⟩ | ⟨hge, rfl⟩
    · exact ⟨fun _ => rfl, rfl, rfl, rfl, fun _ => rfl, fun _ => rfl⟩
    · exact ⟨fun _ => rfl, rfl, rfl, rfl, fun _ => rfl, fun hge => absurd hlt (Nat.not_lt.mpr hge)⟩
    · exact ⟨fun _ => rfl, rfl, rfl, rfl, fun hlt => absurd hlt (Nat.not_lt.mpr hge), fun _ => rfl⟩
  case wrl =>
    rcases exec_wrl_cases h with rfl | ⟨i, hi, rfl⟩ | ⟨hge, rfl⟩
    · exact ⟨fun _ _ => rfl, rfl, rfl, rfl, rfl, fun _ => rfl⟩
    · refine ⟨fun j hj => ?_, rfl, rfl, rfl, rfl, fun _ => rfl⟩
      have hne : i ≠ j := fun heq => hj (heq ▸ hi.symm)
      exact s.readLane_writeLane_ne hne data
    · exact ⟨fun _ _ => rfl, rfl, rfl, rfl, rfl, fun hlt => absurd hlt (Nat.not_lt.mpr hge)⟩
  case perm =>
    rcases exec_perm_cases h with rfl | ⟨hle, rfl⟩ | ⟨hgt, rfl⟩
    · exact ⟨fun _ => rfl, rfl, rfl, rfl, fun _ => rfl, fun _ => rfl⟩
    · exact ⟨fun _ => rfl, rfl, rfl, rfl, fun _ => rfl, fun hgt => absurd hle (Nat.not_le.mpr hgt)⟩
    · exact ⟨fun _ => rfl, rfl, rfl, rfl, fun hle => absurd hle (Nat.not_le.mpr hgt), fun _ => rfl⟩
  case reserved =>
    rcases exec_reserved_cases h with rfl | rfl
    · exact ⟨fun _ => rfl, rfl, rfl, rfl, rfl⟩
    · exact ⟨fun _ => rfl, rfl, rfl, rfl, rfl⟩

end Sys2Proof.Machine

/-! SUPPORT. Proofs about ROUND and the permutation: rotation, expansion, corner cases, the schedule, known answers. -/

namespace Sys2Proof.Machine

/-! ### Rotation and the bitwise relation (R7, R101) -/

theorem toNat_rotl (x : Word) (n : Nat) :
    (rotl x n).toNat = (x.toNat * 2 ^ n ||| x.toNat / 2 ^ (32 - n)) % 2 ^ 32 := by
  have hlow : x.toNat / 2 ^ (32 - n) % 2 ^ 32 = x.toNat / 2 ^ (32 - n) :=
    Nat.mod_eq_of_lt (lt_of_le_of_lt (Nat.div_le_self _ _) x.isLt)
  rw [rotl, BitVec.toNat_or, BitVec.toNat_shiftLeft, BitVec.toNat_ushiftRight, Nat.shiftLeft_eq,
    Nat.shiftRight_eq_div_pow, Nat.or_mod_two_pow, hlow]

theorem rotl_getLsbD (x : Word) {n j : Nat} (hn : n < 32) (hj : j < 32) :
    (rotl x n).getLsbD ((j + n) % 32) = x.getLsbD j := by
  rw [rotl_eq_rotateLeft x hn, BitVec.getLsbD_rotateLeft, Nat.mod_eq_of_lt hn]
  rcases Nat.lt_or_ge (j + n) 32 with hsum | hsum
  · have hstays : ¬ (j + n) % 32 < n := by omega
    have hback : (j + n) % 32 - n = j := by omega
    have hlt : (j + n) % 32 < 32 := by omega
    simp [hstays, hback, hlt]
  · have hwraps : (j + n) % 32 < n := by omega
    have hback : 32 - n + (j + n) % 32 = j := by omega
    simp [hwraps, hback]

/-- Settles O20: the formula is the definition on numbers (`toNat_rotl`); a bit either stays below 32 or wraps
(`rotl_getLsbD`). -/
theorem rotlMovesEveryBit : Obligations.RotlMovesEveryBit :=
  ⟨fun x n _ hn => ⟨toNat_rotl x n, fun _ hj => rotl_getLsbD x hn hj⟩, rfl, rfl⟩

/-- Settles O21: bit `k` of `chi` is the same expression of the three bits, computed in the eight cases. -/
theorem chiFollowsItsTruthTable : Obligations.ChiFollowsItsTruthTable := by
  intro x y z k hk
  have hbit : (chi x y z).getLsbD k = ((!x.getLsbD k && y.getLsbD k) ^^ z.getLsbD k) := by
    simp [chi, hk]
  rw [hbit]
  cases x.getLsbD k <;> cases y.getLsbD k <;> cases z.getLsbD k <;> rfl

/-! ### The expansion (R92) -/

theorem rotl_xor (x y : Word) {n : Nat} (hn : n < 32) : rotl (x ^^^ y) n = rotl x n ^^^ rotl y n := by
  refine BitVec.eq_of_getLsbD_eq fun i hi => ?_
  simp only [rotl_eq_rotateLeft _ hn, BitVec.getLsbD_rotateLeft, BitVec.getLsbD_xor]
  by_cases hwraps : i < n % 32
  · simp [hwraps]
  · simp [hwraps, hi]

/-- Settles O22: both rotations are linear. -/
theorem expansionIsLinear : Obligations.ExpansionIsLinear := by
  intro p q i
  have h5 := rotl_xor (p (i - 1)) (q (i - 1)) (n := 5) (by decide)
  have h14 := rotl_xor (p (i - 1)) (q (i - 1)) (n := 14) (by decide)
  rw [expansion, h5, h14, expansion, expansion]
  ac_rfl

/-! ### Corner cases of the round (R103) -/

/-- The zero state with a constant: the seven steps leave it in lane 0, and in lane 4 rotated by 1 (R103 b). -/
theorem roundFn_zero (rc : Word) : roundFn (Vector.replicate 12 0#32) rc =
    #v[rc, 0#32, 0#32, 0#32, rc.rotateLeft 1, 0#32, 0#32, 0#32, 0#32, 0#32, 0#32, 0#32] := by
  have hmask : 0xFFFFFFFF#32 &&& rc = rc := BitVec.allOnes_and
  refine (roundIsTheSevenSteps _ rc).trans ?_
  simp [hmask]

/-- Settles O23: `roundFn_zero`; its case `rc = 0` and the four columns of the all-ones state are computed. -/
theorem roundCornerCases : Obligations.RoundCornerCases :=
  ⟨roundFn_zero, (roundFn_zero 0#32).trans rfl, by decide⟩

/-! ### The schedule and whole permutations (R112, R119) -/

theorem length_schedule {r : Nat} (h : r ≤ 12) : (schedule r).length = r := by
  rw [schedule, List.length_drop, Vector.length_toList]
  omega

theorem getElem?_schedule {r k : Nat} (hr : r ≤ 12) (hk : k < r) :
    (schedule r)[k]? = fetchRom (BitVec.ofNat 4 (12 - r + k)) := by
  have hidx : (BitVec.ofNat 4 (12 - r + k)).toNat = 12 - r + k := toNat_ofNat_idx (by omega)
  rw [schedule, List.getElem?_drop, fetchRom_eq_getElem?_toList, hidx]

/-- Settles O26: the schedule is the ROM from `12 - R` on, so its `k`-th constant is a look-up there, and `k` is below
its length. -/
theorem scheduleIsTheLastR : Obligations.ScheduleIsTheLastR := by
  refine fun r hr => ⟨length_schedule hr, fun k hk => ⟨getElem?_schedule hr hk, ?_⟩⟩
  rw [ne_eq, List.getElem?_eq_none_iff, length_schedule hr]
  exact Nat.not_le.mpr hk

/-- Settles O28: the longer schedule is its head and the shorter schedule (`schedule_drop`). -/
theorem shorterOperationIsTheTail : Obligations.ShorterOperationIsTheTail := by
  intro r1 r2 x h12 h2
  calc permute r2 x
      = applyRounds x ((schedule r2).take (r2 - r1) ++ (schedule r2).drop (r2 - r1)) := by
        rw [List.take_append_drop, permute]
    _ = permute r1 (applyRounds x ((schedule r2).take (r2 - r1))) := by
        rw [applyRounds_append, schedule_drop h12 h2, permute]

/-! ### Known answers (95_test_vectors.md V1, V2, V5; R77) -/

/-- The state after the first six rounds of twelve on the zero state. -/
theorem applyRounds_firstSix_zero : applyRounds (Vector.replicate 12 0#32) ((schedule 12).take 6) =
    #v[0xA3B08746#32, 0x32112DD6#32, 0x9F70EC00#32, 0xBA28E063#32, 0x2092FA7D#32, 0x55A7031F#32,
       0x420F09B1#32, 0xEA8218B5#32, 0xA9D58A2F#32, 0x48EF098D#32, 0x8023B2F9#32, 0xE0B8B50C#32] := by
  decide

/-- V1: the last six rounds of twelve are `permute 6` of the state after the first six. -/
theorem permute_twelve_zero : permute 12 (Vector.replicate 12 0#32) =
    #v[0x89D5D88D#32, 0xA963FCBF#32, 0x1B232D19#32, 0xFFA5A014#32, 0x36B18106#32, 0xAFC7C1FE#32,
       0xAEE57CBE#32, 0xA77540BD#32, 0x2E86E870#32, 0xFEF5B7C9#32, 0x8B4FADF2#32, 0x5E4F4062#32] := by
  rw [shorterOperationIsTheTail 6 12 _ (by decide) (by decide), applyRounds_firstSix_zero]
  decide

/-- V2. -/
theorem permute_six_zero : permute 6 (Vector.replicate 12 0#32) =
    #v[0x28C9CEA3#32, 0xAD204F60#32, 0x2EC3D0D6#32, 0xF050C7C5#32, 0x08DC1225#32, 0x61992304#32,
       0x9E0D402D#32, 0x42D59B9B#32, 0x1E6114FC#32, 0x186EB697#32, 0x35DBBC7F#32, 0xA1F9104E#32] := by
  decide

/-- Settles O27: V1, V2, and for V5 the state after the first six constants beside V2. -/
theorem knownAnswers : Obligations.KnownAnswers := by
  refine ⟨permute_twelve_zero, permute_six_zero, ?_⟩
  rw [applyRounds_firstSix_zero, permute_six_zero]
  decide

/-- Settles O29: six more rounds of V2 do not give V1. -/
theorem twoOperationsAreNotOneLonger : Obligations.TwoOperationsAreNotOneLonger := by
  rw [Obligations.TwoOperationsAreNotOneLonger, permute_six_zero, permute_twelve_zero]
  decide

/-! ### The micro-operation ROUND (R111) -/

/-- Settles O18: the next state is `State.runRound`, and `ridx + 1` does not wrap. -/
theorem roundReplacesLanesAndCounts : Obligations.RoundReplacesLanesAndCounts := by
  intro s rc hk
  have hactive : s.ridx.toNat < 12 := Nat.lt_succ_of_le hk
  exact ⟨_, execRound_of_active hactive rc, rfl, toNat_succ_ridx hactive, rfl, rfl, rfl, rfl⟩

/-- Everything a ROUND can do. -/
theorem exec_round_cases {rc : Word} {s t : State} (h : exec (.round rc) s = .next t) : t = s ∨ t = s.runRound rc := by
  rcases exec_next_cases h with rfl | ⟨-, _, _, ⟨⟩, -⟩ | ⟨-, _, _, _, ⟨⟩, -⟩ | ⟨-, _, ⟨⟩, -⟩ | ⟨-, ⟨_, ⟨⟩, -⟩, -⟩ |
    ⟨-, ⟨_, _, ⟨⟩, -⟩, -⟩ | ⟨-, ⟨_, ⟨⟩, -⟩, -⟩ | ⟨-, ⟨⟩, -⟩ | ⟨-, _, ⟨⟩, rfl⟩
  · exact .inl rfl
  · exact .inr rfl

/-- Settles O57: `State.runRound` writes lanes and `ridx` only. -/
theorem roundFrame : Obligations.RoundFrame := by
  intro s t rc h
  rcases exec_round_cases h with rfl | rfl
  · exact ⟨rfl, rfl, rfl, rfl⟩
  · exact ⟨rfl, rfl, rfl, rfl⟩

end Sys2Proof.Machine

/-! SUPPORT. Proofs about one step: when it answers, and the only ways in which it changes each register and the
answers. -/

namespace Sys2Proof.Machine

/-! ### What a step runs, and when it answers (R117, R133, U4) -/

/-- A fetched ROM word means an active sequencer. -/
theorem lt_of_fetchRom {k : BitVec 4} {w : Word} (h : fetchRom k = some w) : k.toNat < 12 := by
  rw [fetchRom, Vector.getElem?_eq_some_iff] at h
  obtain ⟨hlt, -⟩ := h
  exact hlt

/-- Settles O30: the next event is the offered command (`nextEvent_of_offer`) or the ROUND of the fetched word
(`nextEvent_of_active`), and the step is `exec` of it on the advanced state. -/
theorem stepRunsTheDecodedInstruction : Obligations.StepRunsTheDecodedInstruction := by
  refine ⟨fun s hr hready hvalid => step_of_run (nextEvent_of_offer hr hready hvalid), fun s w hr hw => ?_⟩
  have hactive : s.ridx.toNat < 12 := lt_of_fetchRom hw
  obtain rfl : rom[s.ridx.toNat] = w := Option.some.inj ((fetchRom_of_lt hactive).symm.trans hw)
  exact step_of_run (nextEvent_of_active hr hactive)

/-- A command answers a next state in every state: acceptance does. -/
theorem exec_command_answers {i : Instr} (hi : ∀ rc, i ≠ .round rc) (s : State) : ∃ t, exec i s = .next t := by
  cases i with
  | rdl idx => exact ⟨_, rfl⟩
  | wrl idx data => exact ⟨_, rfl⟩
  | perm idx => exact ⟨_, rfl⟩
  | reserved => exact ⟨_, rfl⟩
  | round rc => exact absurd rfl (hi rc)

/-- A reset step, and every step with `ridx` at most 12, answers a next state. -/
theorem step_answers {s : State} (h : s.pins.rst = true ∨ s.ridx.toNat ≤ 12) : ∃ t, step s = .next t := by
  cases hr : s.pins.rst with
  | true => exact ⟨_, step_of_rst hr⟩
  | false =>
    have hle : s.ridx.toNat ≤ 12 := h.resolve_left (by simp [hr])
    rcases Nat.lt_or_eq_of_le hle with hactive | hidle
    · exact ⟨_, step_of_active hr hactive⟩
    · have hidle : s.ridx = 12#4 := (ridx_eq_idle_iff _).mpr hidle
      by_cases hnothing : s.err ≠ .none ∨ s.pins.cmdValid = false
      · exact ⟨_, step_of_idle hr hidle hnothing⟩
      · obtain ⟨herr, hvalid⟩ : s.err = .none ∧ s.pins.cmdValid = true := by simpa using hnothing
        have hready : s.cmdReady = true := s.cmdReady_iff.mpr ⟨hidle, herr⟩
        rw [step_of_run (nextEvent_of_offer hr hready hvalid)]
        exact exec_command_answers (decodeCommand_ne_round _) _

/-- Settles O35: the invariants bound `ridx`. -/
theorem noStepStopsTheMachine : Obligations.NoStepStopsTheMachine :=
  fun _ ⟨hle, _⟩ => step_answers (.inr hle)

/-- Above 12 the fetch finds no ROM word (U4). -/
theorem step_of_unreachable {s : State} (hr : s.pins.rst = false) (h : 12 < s.ridx.toNat) :
    step s = .fault .ridxUnreachable := by
  have hbusy : s.busy = true := by
    rw [State.busy_iff, ne_eq, ridx_eq_idle_iff]
    omega
  have hfetch : fetchRom s.ridx = none := Vector.getElem?_eq_none (by omega)
  simp [step, nextEvent, hr, hbusy, fetchRound, hfetch]

/-- ROUND where the sequencer is inactive (R110). -/
theorem execRound_of_idle {s : State} (h : s.ridx = 12#4) (rc : Word) : execRound rc s = .next s := by
  simp [execRound, h]

/-- ROUND above 12 (U4). -/
theorem execRound_of_unreachable {s : State} (h : 12 < s.ridx.toNat) (rc : Word) :
    execRound rc s = .fault .ridxUnreachable := by
  have hactive : ¬ s.ridx.toNat < 12 := by omega
  have hidle : s.ridx ≠ 12#4 := by
    rw [ne_eq, ridx_eq_idle_iff]
    omega
  simp [execRound, hactive, hidle]

theorem exec_ne_refused (i : Instr) (s : State) (r : Refusal) : exec i s ≠ .refused r := by
  by_cases hi : ∃ rc, i = .round rc
  · obtain ⟨rc, rfl⟩ := hi
    rcases Nat.lt_trichotomy s.ridx.toNat 12 with h | h | h
    · simp [exec, execRound_of_active h]
    · simp [exec, execRound_of_idle ((ridx_eq_idle_iff _).mpr h)]
    · simp [exec, execRound_of_unreachable h]
  · obtain ⟨t, ht⟩ := exec_command_answers (not_exists.mp hi) s
    simp [ht]

/-- Every step either answers a next state or stops at an unreachable index. -/
theorem step_answers_or_unreachable (s : State) :
    (∃ t, step s = .next t) ∨
      (s.pins.rst = false ∧ 12 < s.ridx.toNat) ∧ step s = .fault .ridxUnreachable := by
  by_cases h : s.pins.rst = true ∨ s.ridx.toNat ≤ 12
  · exact .inl (step_answers h)
  · obtain ⟨hr, hgt⟩ : s.pins.rst = false ∧ 12 < s.ridx.toNat := by simpa using h
    exact .inr ⟨⟨hr, hgt⟩, step_of_unreachable hr hgt⟩

/-- Settles O36: `step_answers_or_unreachable` for the step, and the three ranges of `ridx` for ROUND. -/
theorem onlyUnreachableIndicesAreStuck : Obligations.OnlyUnreachableIndicesAreStuck := by
  refine ⟨fun s f => ⟨fun hf => ?_, fun ⟨hr, hgt⟩ => step_of_unreachable hr hgt⟩,
    fun s rc h => execRound_of_idle h rc, fun s rc h => execRound_of_unreachable h rc,
    fun i s r => ⟨exec_ne_refused i s r, fun hr => ?_⟩⟩
  · rcases step_answers_or_unreachable s with ⟨t, ht⟩ | ⟨hstuck, -⟩
    · cases ht.symm.trans hf
    · exact hstuck
  · rcases step_answers_or_unreachable s with ⟨t, ht⟩ | ⟨-, ht⟩
    · cases ht.symm.trans hr
    · cases ht.symm.trans hr

/-! ### The writers of each register (R13, R14, R16) -/

/-- A legal instruction raises nothing. -/
theorem exec_keeps_err {i : Instr} {s t : State} (hi : i.wellFormed = true) (h : exec i s = .next t) :
    t.err = s.err := by
  rcases exec_next_cases h with
    rfl | ⟨-, _, _, -, -, rfl⟩ | ⟨-, _, _, _, -, -, rfl⟩ | ⟨-, _, -, -, rfl⟩ | ⟨-, ⟨_, rfl, hidx⟩, -⟩ |
    ⟨-, ⟨_, _, rfl, hidx⟩, -⟩ | ⟨-, ⟨_, rfl, hidx⟩, -⟩ | ⟨-, rfl, -⟩ | ⟨-, _, -, rfl⟩
  · rfl
  · rfl
  · rfl
  · rfl
  · exact absurd hidx (Nat.not_le.mpr (Nat.lt_succ_of_le (of_decide_eq_true hi)))
  · exact absurd hidx (Nat.not_le.mpr (Nat.lt_succ_of_le (of_decide_eq_true hi)))
  · exact absurd hidx (Nat.not_lt.mpr (of_decide_eq_true hi))
  · cases hi
  · rfl

/-- Settles O46: of the things a step can do only a reset step and an accepted command can touch ERR, and a legal
command keeps it (`exec_keeps_err`). -/
theorem errChangesOnlyByFaultOrReset : Obligations.ErrChangesOnlyByFaultOrReset := by
  intro s t hstep hne
  rcases step_next_cases hstep with ⟨hrst, rfl⟩ | ⟨-, _, rfl⟩ | ⟨hr, hready, hvalid, hexec⟩ | ⟨-, -, -, rfl⟩
  · exact .inl ⟨hrst, rfl⟩
  · exact absurd rfl hne
  · refine .inr ⟨State.accepting_of_offer hr hready hvalid, (s.cmdReady_iff.mp hready).2, ?_⟩
    exact Bool.eq_false_iff.mpr fun hlegal => hne (exec_keeps_err (s := s.advance) hlegal hexec)
  · exact absurd rfl hne

/-- Of the commands only a legal PERM writes `ridx`. -/
theorem exec_command_ridx {i : Instr} (hi : ∀ rc, i ≠ .round rc) {s t : State} (h : exec i s = .next t) :
    t.ridx = s.ridx ∨ ∃ idx, i = .perm idx ∧ idx.toNat ≤ 12 ∧ t.ridx = 12#4 - idx := by
  rcases exec_next_cases h with
    rfl | ⟨-, _, _, -, -, rfl⟩ | ⟨-, _, _, _, -, -, rfl⟩ | ⟨-, idx, rfl, hidx, rfl⟩ | ⟨-, -, rfl⟩ | ⟨-, -, rfl⟩ |
    ⟨-, -, rfl⟩ | ⟨-, -, rfl⟩ | ⟨-, rc, rfl, -⟩
  case inr.inr.inr.inl => exact .inr ⟨idx, rfl, hidx, rfl⟩
  case inr.inr.inr.inr.inr.inr.inr.inr => exact absurd rfl (hi rc)
  all_goals exact .inl rfl

/-- Settles O47: a reset step writes 12, a round counts up, and a command that writes `ridx` is a legal PERM
(`exec_command_ridx`). -/
theorem ridxChangesOnlyByPermRoundOrReset : Obligations.RidxChangesOnlyByPermRoundOrReset := by
  intro s t hstep hne
  rcases step_next_cases hstep with ⟨hrst, rfl⟩ | ⟨hr, hk, rfl⟩ | ⟨hr, hready, hvalid, hexec⟩ | ⟨-, -, -, rfl⟩
  · exact .inl ⟨hrst, rfl⟩
  · exact .inr (.inr ⟨hr, Nat.le_of_lt_succ hk, toNat_succ_ridx hk⟩)
  · rcases exec_command_ridx (decodeCommand_ne_round _) hexec with hkept | ⟨idx, hcmd, hidx, hridx⟩
    · exact absurd hkept hne
    · refine .inr (.inl ⟨State.accepting_of_offer hr hready hvalid, idx, hcmd, hidx, ?_⟩)
      rw [hridx, toNat_startIndex hidx]
  · exact absurd rfl hne

/-- Of the commands only a WRL of an existing lane writes a lane. -/
theorem exec_command_lanes {i : Instr} (hi : ∀ rc, i ≠ .round rc) {s t : State} (h : exec i s = .next t) :
    t.lanes = s.lanes ∨
      ∃ idx data, ∃ j : Fin 12, i = .wrl idx data ∧ idx.toNat = j.val ∧ t = s.writeLane j data := by
  rcases exec_next_cases h with
    rfl | ⟨-, _, _, -, -, rfl⟩ | ⟨-, hwrl⟩ | ⟨-, _, -, -, rfl⟩ | ⟨-, -, rfl⟩ | ⟨-, -, rfl⟩ | ⟨-, -, rfl⟩ | ⟨-, -, rfl⟩ |
    ⟨-, rc, rfl, -⟩
  case inr.inr.inl => exact .inr hwrl
  case inr.inr.inr.inr.inr.inr.inr.inr => exact absurd rfl (hi rc)
  all_goals exact .inl rfl

/-- Settles O48: a command that writes a lane is a WRL (`exec_command_lanes`), and it leaves every lane but its own. -/
theorem lanesChangeOnlyByWrlRoundOrReset : Obligations.LanesChangeOnlyByWrlRoundOrReset := by
  intro s t j hstep hne
  rcases step_next_cases hstep with ⟨hrst, rfl⟩ | ⟨hr, hk, rfl⟩ | ⟨hr, hready, hvalid, hexec⟩ | ⟨-, -, -, rfl⟩
  · exact .inl hrst
  · exact .inr (.inl ⟨hr, Nat.le_of_lt_succ hk⟩)
  · rcases exec_command_lanes (decodeCommand_ne_round _) hexec with hkept | ⟨idx, data, k, hcmd, hk, rfl⟩
    · simp [hkept] at hne
    · obtain rfl : k = j := by
        by_contra hkj
        exact hne (s.advance.readLane_writeLane_ne hkj data)
      exact .inr (.inr ⟨State.accepting_of_offer hr hready hvalid, idx, data, hcmd, hk,
        s.advance.readLane_writeLane_self k data⟩)
  · exact absurd rfl hne

/-! ### The answers (R51, R71) -/

theorem State.accepting_iff (s : State) :
    s.accepting = true ↔ s.pins.rst = false ∧ s.pins.cmdValid = true ∧ s.cmdReady = true := by
  simp [State.accepting, and_assoc]

theorem laneIndex?_map_readLane (idx : BitVec 4) (s : State) :
    (laneIndex? idx).map s.readLane = s.lanes[idx.toNat]? := by
  rcases Nat.lt_or_ge idx.toNat 12 with h | h
  · simp [laneIndex?_of_lt h, State.readLane, h]
  · simp [laneIndex?_of_ge h, h]

/-- While an RDL is accepted the response pins show its lane, if it exists. -/
theorem State.rsp_of_rdl {s : State} {idx : BitVec 4} (ha : s.accepting = true)
    (hcmd : decodeCommand s.pins.cmd = .rdl idx) : s.rsp = s.lanes[idx.toNat]? := by
  rw [← laneIndex?_map_readLane]
  simp [State.rsp, ha, hcmd]

/-- Every other command drives no response. -/
theorem State.rsp_of_ne_rdl {s : State} (hcmd : ∀ idx, decodeCommand s.pins.cmd ≠ .rdl idx) : s.rsp = none := by
  rcases decodeCommand_cases s.pins.cmd with ⟨-, hdec⟩ | ⟨-, hdec⟩ | ⟨-, hdec⟩ | ⟨-, hdec⟩
  · exact absurd hdec (hcmd _)
  · simp [State.rsp, hdec]
  · simp [State.rsp, hdec]
  · simp [State.rsp, hdec]

/-- Every instruction but RDL keeps the answers. -/
theorem exec_keeps_responses {i : Instr} (hi : ∀ idx, i ≠ .rdl idx) {s t : State} (h : exec i s = .next t) :
    t.responses = s.responses := by
  rcases exec_next_cases h with
    rfl | ⟨-, idx, _, rfl, -, -⟩ | ⟨-, _, _, _, -, -, rfl⟩ | ⟨-, _, -, -, rfl⟩ | ⟨-, -, rfl⟩ | ⟨-, -, rfl⟩ |
    ⟨-, -, rfl⟩ | ⟨-, -, rfl⟩ | ⟨-, _, -, rfl⟩
  case inr.inl => exact absurd rfl (hi idx)
  all_goals rfl

/-- An RDL on a ready block adds its lane to the answers, if it exists. -/
theorem exec_rdl_responses {s t : State} {idx : BitVec 4} (hr : s.cmdReady = true) (h : exec (.rdl idx) s = .next t) :
    t.responses = s.responses ++ s.lanes[idx.toNat]?.toList := by
  rw [exec_rdl_of_ready hr] at h
  cases h
  split
  · next hlt => simp [hlt]
  · next hge => simp [hge]

/-- While the sequencer is active the block is not ready. -/
theorem State.cmdReady_of_active {s : State} (h : s.ridx.toNat < 12) : s.cmdReady = false := by
  refine Bool.eq_false_iff.mpr fun hready => ?_
  have hidle : s.ridx.toNat = 12 := (ridx_eq_idle_iff _).mp (s.ridx_of_cmdReady hready)
  omega

/-- The answers grow in a step by what the response pins show during it. -/
theorem step_responses {s t : State} (h : step s = .next t) : t.responses = s.responses ++ s.rsp.toList := by
  have hsilent (hrsp : s.rsp = none) : s.responses = s.responses ++ s.rsp.toList := by simp [hrsp]
  rcases step_next_cases h with ⟨hrst, rfl⟩ | ⟨-, hk, rfl⟩ | ⟨hr, hready, hvalid, hexec⟩ | ⟨-, -, hnothing, rfl⟩
  · exact hsilent (State.rsp_of_not_accepting (State.accepting_of_rst hrst))
  · exact hsilent (State.rsp_of_not_accepting (State.accepting_of_not_ready (State.cmdReady_of_active hk)))
  · have ha : s.accepting = true := State.accepting_of_offer hr hready hvalid
    by_cases hcmd : ∃ idx, decodeCommand s.pins.cmd = .rdl idx
    · obtain ⟨idx, hcmd⟩ := hcmd
      rw [hcmd] at hexec
      rw [State.rsp_of_rdl ha hcmd]
      exact exec_rdl_responses (s := s.advance) hready hexec
    · rw [exec_keeps_responses (not_exists.mp hcmd) hexec]
      exact hsilent (State.rsp_of_ne_rdl (not_exists.mp hcmd))
  · rcases hnothing with herr | hunoffered
    · exact hsilent (State.rsp_of_not_accepting (State.accepting_of_not_ready (State.cmdReady_of_halted herr)))
    · exact hsilent (State.rsp_of_not_accepting (State.accepting_of_unoffered hunoffered))

/-- The response pins show a word exactly while an RDL of an existing lane is accepted. -/
theorem State.rsp_eq_some_iff (s : State) (v : Word) :
    s.rsp = some v ↔
      s.accepting = true ∧ ∃ idx, decodeCommand s.pins.cmd = .rdl idx ∧ s.lanes[idx.toNat]? = some v := by
  constructor
  · intro h
    have ha : s.accepting = true := by
      by_contra hna
      simp [State.rsp_of_not_accepting (Bool.eq_false_iff.mpr hna)] at h
    by_cases hcmd : ∃ idx, decodeCommand s.pins.cmd = .rdl idx
    · obtain ⟨idx, hcmd⟩ := hcmd
      exact ⟨ha, idx, hcmd, (State.rsp_of_rdl ha hcmd).symm.trans h⟩
    · cases (State.rsp_of_ne_rdl (not_exists.mp hcmd)).symm.trans h
  · rintro ⟨ha, idx, hcmd, hv⟩
    exact (State.rsp_of_rdl ha hcmd).trans hv

/-- Settles O49: `step_responses` and `State.rsp_eq_some_iff`. -/
theorem answersAreWhatTheResponsePinsShow : Obligations.AnswersAreWhatTheResponsePinsShow := by
  refine ⟨fun s t h => step_responses h, fun s v => ?_⟩
  rw [s.rsp_eq_some_iff, s.accepting_iff, s.cmdReady_iff]
  simp only [and_assoc]

/-! ### What a step does not depend on (R51, R131, R152) -/

/-- A block that is not ready goes on with its round or does nothing; the offer is not looked at. -/
theorem nextEvent_of_not_ready {s : State} (hr : s.pins.rst = false) (h : s.cmdReady = false) :
    nextEvent s = if s.busy then fetchRound s else .nothing := by
  have hhalted : s.busy = false → s.halted = true := by simpa [State.cmdReady] using h
  cases hb : s.busy with
  | true => simp [nextEvent, hr, hb]
  | false => simp [nextEvent, hr, hb, hhalted hb]

/-- Settles O50: the event depends on `ridx` only (`nextEvent_of_not_ready`), and the offer is gone after the edge. -/
theorem offerIsIgnoredWhileNotReady : Obligations.OfferIsIgnoredWhileNotReady := by
  intro s v v' w w' rest h
  have hevent (v : Bool) (w : CommandWord) :
      nextEvent { s with inputs := { rst := false, cmdValid := v, cmd := w } :: rest } =
        if s.busy then fetchRound s else .nothing :=
    nextEvent_of_not_ready (s := { s with inputs := _ }) rfl h
  simp only [step, hevent]
  rfl

/-- Settles O53: the lanes of a reset step are drawn, whatever they were. -/
theorem resetForgetsTheLanes : Obligations.ResetForgetsTheLanes := by
  intro s t x hrst h
  rw [step_of_rst hrst] at h
  exact (step_of_rst (s := { s with lanes := x }) hrst).trans h

/-! ### The state right after reset (R23) -/

/-- Settles O34: it is idle. -/
theorem resetMeetsTheInvariants : Obligations.ResetMeetsTheInvariants :=
  .of_idle State.reset_ridx

/-- Settles O54: every clause is read off the two registers; nothing is offered, so no response is driven. -/
theorem resetValues : Obligations.ResetValues :=
  ⟨rfl, rfl, rfl, rfl, State.status_of_unhalted State.reset_err, State.reset.cmdReady_iff.mpr ⟨rfl, rfl⟩,
    State.rsp_of_not_accepting (State.accepting_of_unoffered rfl)⟩

end Sys2Proof.Machine

/-! SUPPORT. Proofs about whole runs: a dutiful host never halts the block, and control does not see the lanes. -/

namespace Sys2Proof.Machine

/-! ### The host that does its duty (R133, R154 d) -/

/-- No instruction touches the coming pins. -/
theorem exec_keeps_inputs {i : Instr} {s t : State} (h : exec i s = .next t) : t.inputs = s.inputs := by
  rcases exec_next_cases h with
    rfl | ⟨-, _, _, -, -, rfl⟩ | ⟨-, _, _, _, -, -, rfl⟩ | ⟨-, _, -, -, rfl⟩ | ⟨-, -, rfl⟩ | ⟨-, -, rfl⟩ | ⟨-, -, rfl⟩ |
    ⟨-, -, rfl⟩ | ⟨-, _, -, rfl⟩
  all_goals rfl

/-- A step uses up the pin values of one edge. -/
theorem step_inputs {s t : State} (h : step s = .next t) : t.inputs = s.inputs.tail := by
  rcases step_next_cases h with ⟨-, rfl⟩ | ⟨-, _, rfl⟩ | ⟨-, -, -, hexec⟩ | ⟨-, -, -, rfl⟩
  · rfl
  · rfl
  · exact exec_keeps_inputs (s := s.advance) hexec
  · rfl

/-- The pins at the next edge are listed, or they idle. -/
theorem State.pins_dutiful {s : State} {n : Nat} (h : ∀ p ∈ s.inputs.take (n + 1), p.Dutiful) : s.pins.Dutiful := by
  rcases hin : s.inputs with _ | ⟨p, ps⟩
  · simp [State.pins, hin, idlePins, Pins.Dutiful]
  · have hpins : s.pins = p := by simp [State.pins, hin]
    rw [hpins]
    exact h p (by simp [hin])

/-- A step of an unhalted block to which no faulting word is offered leaves it unhalted. -/
theorem step_keeps_unhalted {s t : State} (herr : s.err = .none) (hd : s.pins.Dutiful) (h : step s = .next t) :
    t.err = .none := by
  by_contra hne
  rcases errChangesOnlyByFaultOrReset s t h (herr ▸ hne) with ⟨-, hreset⟩ | ⟨ha, -, hillegal⟩
  · exact hne hreset
  · obtain ⟨-, hvalid, -⟩ := s.accepting_iff.mp ha
    have hlegal := hd hvalid
    simp [hillegal] at hlegal

/-- Settles O51, by induction on the steps: each step answers (`noStepStopsTheMachine`) and keeps the invariants and the
unhalted block. -/
theorem dutifulHostNeverHaltsTheBlock : Obligations.DutifulHostNeverHaltsTheBlock := by
  intro n
  induction n with
  | zero => exact fun s hs herr _ => ⟨s, rfl, hs, herr⟩
  | succ n ih =>
    intro s hs herr hd
    obtain ⟨u, hu⟩ := noStepStopsTheMachine s hs
    have hrest : ∀ p ∈ u.inputs.take n, p.Dutiful := by
      intro p hp
      have htail : (s.inputs.take (n + 1)).tail = s.inputs.tail.take n := s.inputs.tail_take_eq_take_tail (n + 1)
      rw [step_inputs hu, ← htail] at hp
      exact hd p (List.mem_of_mem_tail hp)
    rw [run_succ hu]
    exact ih u (step_keeps_inv hs hu) (step_keeps_unhalted herr (State.pins_dutiful hd) hu) hrest

/-! ### Control without the lanes (R105, R115, R157) -/

section SameControl

variable {s s' : State}

theorem State.SameControl.respond (h : s.SameControl s') (v v' : Word) : (s.respond v).SameControl (s'.respond v') := by
  obtain ⟨hridx, herr, hin, hdraws, hlen⟩ := h
  exact ⟨hridx, herr, hin, hdraws, by simp [hlen]⟩

theorem State.SameControl.writeLane (h : s.SameControl s') (i : Fin 12) (v : Word) :
    (s.writeLane i v).SameControl (s'.writeLane i v) := h

theorem State.SameControl.setRidx (h : s.SameControl s') (k : BitVec 4) : (s.setRidx k).SameControl (s'.setRidx k) := by
  obtain ⟨-, herr, hin, hdraws, hlen⟩ := h
  exact ⟨rfl, herr, hin, hdraws, hlen⟩

theorem State.SameControl.raise (h : s.SameControl s') (c : ErrCode) : (s.raise c).SameControl (s'.raise c) := by
  obtain ⟨hridx, -, hin, hdraws, hlen⟩ := h
  exact ⟨hridx, rfl, hin, hdraws, hlen⟩

theorem State.SameControl.runRound (h : s.SameControl s') (rc : Word) :
    (s.runRound rc).SameControl (s'.runRound rc) := by
  obtain ⟨hridx, herr, hin, hdraws, hlen⟩ := h
  exact ⟨congrArg (· + 1#4) hridx, herr, hin, hdraws, hlen⟩

theorem State.SameControl.resetBlock (h : s.SameControl s') : s.resetBlock.SameControl s'.resetBlock := by
  obtain ⟨-, -, hin, hdraws, hlen⟩ := h
  exact ⟨rfl, rfl, hin, congrArg (· + 12) hdraws, hlen⟩

theorem State.SameControl.advance (h : s.SameControl s') : s.advance.SameControl s'.advance := by
  obtain ⟨hridx, herr, hin, hdraws, hlen⟩ := h
  exact ⟨hridx, herr, congrArg List.tail hin, hdraws, hlen⟩

/-! What is computed from `ridx`, ERR and the pins is the same in both states. -/

theorem State.SameControl.busy (h : s.SameControl s') : s.busy = s'.busy := by
  obtain ⟨hridx, -⟩ := h
  simp only [State.busy, hridx]

theorem State.SameControl.halted (h : s.SameControl s') : s.halted = s'.halted := by
  obtain ⟨-, herr, -⟩ := h
  simp only [State.halted, herr]

theorem State.SameControl.cmdReady (h : s.SameControl s') : s.cmdReady = s'.cmdReady := by
  rw [State.cmdReady, State.cmdReady, h.busy, h.halted]

theorem State.SameControl.status (h : s.SameControl s') : s.status = s'.status := by
  have hbusy := h.busy
  obtain ⟨-, herr, -⟩ := h
  rw [State.status, State.status, hbusy, herr]

theorem State.SameControl.pins (h : s.SameControl s') : s.pins = s'.pins := by
  obtain ⟨-, -, hin, -⟩ := h
  rw [State.pins, State.pins, hin]

theorem State.SameControl.fetchRound (h : s.SameControl s') : fetchRound s = fetchRound s' := by
  obtain ⟨hridx, -⟩ := h
  simp only [Machine.fetchRound, hridx]

theorem State.SameControl.nextEvent (h : s.SameControl s') : nextEvent s = nextEvent s' := by
  rw [Machine.nextEvent, Machine.nextEvent, h.pins, h.busy, h.halted, h.fetchRound]

theorem State.SameControl.accepting (h : s.SameControl s') : s.accepting = s'.accepting := by
  rw [State.accepting, State.accepting, h.pins, h.cmdReady]

/-- Whether a response is driven depends on the command and its index only. -/
theorem State.SameControl.rsp_isSome (h : s.SameControl s') : s.rsp.isSome = s'.rsp.isSome := by
  cases ha : s.accepting with
  | false => rw [State.rsp_of_not_accepting ha, State.rsp_of_not_accepting (h.accepting ▸ ha)]
  | true =>
    by_cases hcmd : ∃ idx, decodeCommand s.pins.cmd = .rdl idx
    · obtain ⟨idx, hcmd⟩ := hcmd
      rw [State.rsp_of_rdl ha hcmd, State.rsp_of_rdl (h.accepting ▸ ha) (h.pins ▸ hcmd)]
      rw [Bool.eq_iff_iff, isSome_getElem?, isSome_getElem?]
    · rw [State.rsp_of_ne_rdl (not_exists.mp hcmd), State.rsp_of_ne_rdl (h.pins ▸ not_exists.mp hcmd)]

/-! Both states go on alike. -/

theorem State.SameControl.withLane (h : s.SameControl s') (idx : BitVec 4) {effect effect' : Fin 12 → State}
    (heffect : ∀ i, (effect i).SameControl (effect' i)) :
    (withLane idx s effect).SameControl (withLane idx s' effect') := by
  rcases Nat.lt_or_ge idx.toNat 12 with hidx | hidx
  · rw [withLane_of_lt hidx, withLane_of_lt hidx]
    exact heffect _
  · rw [withLane_of_ge hidx, withLane_of_ge hidx]
    exact h.raise _

theorem State.SameControl.accept {t : State} (h : s.SameControl s') {effect : State → State}
    (heffect : (effect s).SameControl (effect s')) (ht : accept s effect = .next t) :
    ∃ t', accept s' effect = .next t' ∧ t.SameControl t' := by
  cases hr : s.cmdReady with
  | false =>
    rw [accept_of_not_ready hr] at ht
    cases ht
    exact ⟨s', accept_of_not_ready (h.cmdReady ▸ hr) _, h⟩
  | true =>
    rw [accept_of_ready hr] at ht
    cases ht
    exact ⟨effect s', accept_of_ready (h.cmdReady ▸ hr) _, heffect⟩

theorem State.SameControl.execRound {t : State} (h : s.SameControl s') {rc : Word} (ht : execRound rc s = .next t) :
    ∃ t', execRound rc s' = .next t' ∧ t.SameControl t' := by
  have hridx : s.ridx = s'.ridx := h.1
  rcases Nat.lt_trichotomy s.ridx.toNat 12 with hk | hk | hk
  · rw [execRound_of_active hk] at ht
    cases ht
    exact ⟨_, execRound_of_active (hridx ▸ hk) rc, h.runRound rc⟩
  · have hidle : s.ridx = 12#4 := (ridx_eq_idle_iff _).mpr hk
    rw [execRound_of_idle hidle] at ht
    cases ht
    exact ⟨s', execRound_of_idle (hridx ▸ hidle) rc, h⟩
  · rw [execRound_of_unreachable hk] at ht
    cases ht

theorem State.SameControl.exec {t : State} (h : s.SameControl s') {i : Instr} (ht : exec i s = .next t) :
    ∃ t', exec i s' = .next t' ∧ t.SameControl t' := by
  cases i with
  | rdl idx =>
    rw [Machine.exec, execRdl] at ht ⊢
    refine h.accept ?_ ht
    exact h.withLane idx fun i => h.respond _ _
  | wrl idx data =>
    rw [Machine.exec, execWrl] at ht ⊢
    refine h.accept ?_ ht
    exact h.withLane idx fun i => h.writeLane i data
  | perm idx =>
    rw [Machine.exec, execPerm] at ht ⊢
    refine h.accept ?_ ht
    cases startIndex? idx with
    | some k => exact h.setRidx k
    | none => exact h.raise _
  | reserved =>
    rw [Machine.exec, execReserved] at ht ⊢
    refine h.accept ?_ ht
    exact h.raise _
  | round rc => exact h.execRound ht

theorem State.SameControl.step {t : State} (h : s.SameControl s') (ht : step s = .next t) :
    ∃ t', step s' = .next t' ∧ t.SameControl t' := by
  have hevent := h.nextEvent
  cases he : Machine.nextEvent s with
  | reset =>
    rw [step_of_reset he] at ht
    cases ht
    exact ⟨_, step_of_reset (hevent ▸ he), h.advance.resetBlock⟩
  | run i =>
    rw [step_of_run he] at ht
    rw [step_of_run (hevent ▸ he)]
    exact h.advance.exec ht
  | nothing =>
    rw [step_of_nothing he] at ht
    cases ht
    exact ⟨_, step_of_nothing (hevent ▸ he), h.advance⟩
  | stuck f => simp [Machine.step, he] at ht

theorem State.SameControl.run {n : Nat} {t : State} (h : s.SameControl s') (ht : run n s = .next t) :
    ∃ t', run n s' = .next t' ∧ t.SameControl t' := by
  induction n generalizing s s' with
  | zero =>
    cases ht
    exact ⟨s', rfl, h⟩
  | succ n ih =>
    obtain ⟨u, hu, ht⟩ := run_succ_next ht
    obtain ⟨u', hu', hsame⟩ := h.step hu
    rw [run_succ hu']
    exact ih hsame ht

end SameControl

/-- Settles O43, by induction on the steps (`State.SameControl.run`): every step keeps the relation, and the outputs are
computed from what the two states share. -/
theorem controlIgnoresTheLanes : Obligations.ControlIgnoresTheLanes := by
  intro n s s' t h ht
  obtain ⟨t', ht', hsame⟩ := h.run ht
  exact ⟨t', ht', hsame, hsame.cmdReady, hsame.status, hsame.rsp_isSome⟩

end Sys2Proof.Machine

/-! SUPPORT. Proofs about the pseudo-instructions LDST, RDST and APPLY: their words, the pins of a host that holds its
offers, and the runs these pins cause. -/

namespace Sys2Proof.Machine

/-! ### The words of LDST and RDST (R63, R64) -/

/-- The word of `WRL i, d`. -/
def wrlWord (i : Fin 12) (d : Word) : CommandWord := commandWord 0b01#2 (BitVec.ofNat 4 i.val) d

/-- The word of `RDL i`. -/
def rdlWord (i : Fin 12) : CommandWord := commandWord 0b00#2 (BitVec.ofNat 4 i.val) 0#32

theorem assemble_wrlWord (i : Fin 12) (d : Word) : assemble (.wrl i.val d.toNat) = some (wrlWord i d) := by
  rw [assemble_wrl (by omega) d.isLt, BitVec.ofNat_toNat, BitVec.setWidth_eq, wrlWord]

theorem assemble_rdlWord (i : Fin 12) : assemble (.rdl i.val) = some (rdlWord i) := assemble_rdl (by omega)

theorem mapM_assemble_ldst (ws : Lanes) :
    (ldst ws).mapM assemble = some ((List.finRange 12).map fun i => wrlWord i ws[i.val]) := by
  have hlines : assemble ∘ (fun i : Fin 12 => .wrl i.val ws[i.val].toNat) = fun i => pure (wrlWord i ws[i.val]) :=
    funext fun i => assemble_wrlWord i ws[i.val]
  rw [ldst, List.mapM_map, hlines, List.mapM_pure]
  rfl

theorem mapM_assemble_rdst : rdst.mapM assemble = some ((List.finRange 12).map rdlWord) := by
  have hrdst : rdst = (List.finRange 12).map fun i => .rdl i.val := by decide
  have hlines : assemble ∘ (fun i : Fin 12 => .rdl i.val) = fun i => pure (rdlWord i) := funext assemble_rdlWord
  rw [hrdst, List.mapM_map, hlines, List.mapM_pure]
  rfl

theorem mapM_assemble_apply {r : Nat} (hr : r ≤ 12) (ws : Lanes) :
    (apply r ws).mapM assemble =
      some ((List.finRange 12).map (fun i => wrlWord i ws[i.val]) ++
        commandWord 0b10#2 (BitVec.ofNat 4 r) 0#32 :: (List.finRange 12).map rdlWord) := by
  simp only [apply, List.mapM_append, List.mapM_cons, List.mapM_nil, mapM_assemble_ldst, mapM_assemble_rdst,
    assemble_perm hr]
  simp

/-! ### The pins of a host that holds its offers (R63, R156) -/

/-- Only a PERM makes the host wait. -/
theorem busySteps_of_op_ne {w : CommandWord} (h : opField w ≠ 0b10#2) : busySteps w = 0 := by
  simp [busySteps, h]

theorem busySteps_wrlWord (i : Fin 12) (d : Word) : busySteps (wrlWord i d) = 0 :=
  busySteps_of_op_ne (by rw [wrlWord, opField_commandWord]; decide)

theorem busySteps_rdlWord (i : Fin 12) : busySteps (rdlWord i) = 0 :=
  busySteps_of_op_ne (by rw [rdlWord, opField_commandWord]; decide)

theorem busySteps_perm {idx : BitVec 4} (h : idx.toNat ≤ 12) (data : Word) :
    busySteps (commandWord 0b10#2 idx data) = idx.toNat := by
  simp [busySteps, h]

/-- Words that do not make the host wait are offered once each. -/
theorem holdOffers_append {ws : List CommandWord} (h : ∀ w ∈ ws, busySteps w = 0) (vs : List CommandWord) :
    holdOffers 0 (ws ++ vs) = ws.map offer ++ holdOffers 0 vs := by
  induction ws with
  | nil => rfl
  | cons w ws ih =>
    obtain ⟨hw, hws⟩ := List.forall_mem_cons.mp h
    simp only [List.cons_append, holdOffers, hw, ih hws]
    rfl

/-- A host that has to wait repeats its next word so often before it is accepted. -/
theorem holdOffers_wait (wait : Nat) (w : CommandWord) (ws : List CommandWord) :
    holdOffers wait (w :: ws) = List.replicate wait (offer w) ++ holdOffers 0 (w :: ws) := by
  simp only [holdOffers, List.replicate_succ', List.append_assoc]
  rfl

/-! ### Runs of offers accepted one per step -/

/-- On a ready block the word has this effect, which leaves the block ready and does not look at the coming pins. -/
structure HasEffect (w : CommandWord) (effect : State → State) : Prop where
  exec_eq : ∀ s : State, s.cmdReady = true → exec (decodeCommand w) s = .next (effect s)
  cmdReady_eq : ∀ s : State, (effect s).cmdReady = s.cmdReady
  with_inputs : ∀ (s : State) (ps : List Pins), effect { s with inputs := ps } = { effect s with inputs := ps }

theorem HasEffect.inputs_eq {w : CommandWord} {effect : State → State} (h : HasEffect w effect) (s : State) :
    (effect s).inputs = s.inputs := by
  have hsame : effect s = { effect s with inputs := s.inputs } := h.with_inputs s s.inputs
  rw [hsame]

theorem hasEffect_wrlWord (i : Fin 12) (d : Word) : HasEffect (wrlWord i d) fun s => s.writeLane i d where
  exec_eq s hready := by
    have hidx : (BitVec.ofNat 4 i.val).toNat = i.val := toNat_ofNat_idx (by omega)
    have hlt : (BitVec.ofNat 4 i.val).toNat < 12 := by rw [hidx]; exact i.isLt
    rw [wrlWord, decodeCommand_commandWord_wrl, exec_wrl_of_lt hready hlt]
    simp only [hidx]
  cmdReady_eq s := s.writeLane_cmdReady i d
  with_inputs _ _ := rfl

theorem hasEffect_rdlWord (i : Fin 12) : HasEffect (rdlWord i) fun s => s.respond (s.readLane i) where
  exec_eq s hready := by
    have hidx : (BitVec.ofNat 4 i.val).toNat = i.val := toNat_ofNat_idx (by omega)
    have hlt : (BitVec.ofNat 4 i.val).toNat < 12 := by rw [hidx]; exact i.isLt
    rw [rdlWord, decodeCommand_commandWord_rdl, exec_rdl_of_lt hready hlt]
    simp only [hidx]
  cmdReady_eq s := s.respond_cmdReady _
  with_inputs _ _ := rfl

/-- A step to which a ready block is offered a word runs what the word decodes to (R51). -/
theorem step_of_offer {s : State} {w : CommandWord} (hready : s.cmdReady = true) (hpins : s.pins = offer w) :
    step s = exec (decodeCommand w) s.advance := by
  have hevent : nextEvent s = .run (decodeCommand s.pins.cmd) := by
    refine nextEvent_of_offer ?_ hready ?_ <;> rw [hpins] <;> rfl
  rw [step_of_run hevent, hpins]
  rfl

/-- The step that accepts such a word is its effect once the edge is past. -/
theorem HasEffect.step_eq {w : CommandWord} {effect : State → State} (h : HasEffect w effect) {s : State}
    (hready : s.cmdReady = true) (hpins : s.pins = offer w) : step s = .next (effect s.advance) :=
  (step_of_offer hready hpins).trans (h.exec_eq s.advance hready)

/-- Such words, offered one after the other to a ready block, have their effects one after the other. -/
theorem run_of_offers {α : Type} {word : α → CommandWord} {effect : α → State → State}
    (h : ∀ a, HasEffect (word a) (effect a)) (as : List α) (rest : List Pins) {s : State} (hready : s.cmdReady = true)
    (hin : s.inputs = as.map (fun a => offer (word a)) ++ rest) :
    run as.length s = .next (as.foldl (fun t a => effect a t) { s with inputs := rest }) := by
  induction as generalizing s with
  | nil =>
    obtain rfl : s.inputs = rest := hin
    rfl
  | cons a as ih =>
    have hpins : s.pins = offer (word a) := by simp [State.pins, hin]
    have hready' : (effect a s.advance).cmdReady = true := ((h a).cmdReady_eq s.advance).trans hready
    have hin' : (effect a s.advance).inputs = as.map (fun a => offer (word a)) ++ rest := by
      rw [(h a).inputs_eq, State.advance_inputs, hin]
      rfl
    calc run (as.length + 1) s = run as.length (effect a s.advance) := run_succ ((h a).step_eq hready hpins) _
      _ = .next (as.foldl (fun t a => effect a t) { effect a s.advance with inputs := rest }) := ih hready' hin'
      _ = .next (as.foldl (fun t a => effect a t) (effect a { s with inputs := rest })) := by
        rw [← (h a).with_inputs]
        rfl

/-! ### All lanes written, all lanes read -/

/-- After writes of the lanes of a list each of these holds its word, and every other lane what it held. -/
theorem foldl_writeLane (js : List (Fin 12)) (ws : Lanes) (s : State) :
    ∃ x : Lanes, js.foldl (fun t j => t.writeLane j ws[j.val]) s = { s with lanes := x } ∧
      ∀ k : Fin 12, x[k.val] = if k ∈ js then ws[k.val] else s.lanes[k.val] := by
  induction js generalizing s with
  | nil => exact ⟨s.lanes, rfl, fun _ => rfl⟩
  | cons j js ih =>
    obtain ⟨x, hfold, hx⟩ := ih (s.writeLane j ws[j.val])
    refine ⟨x, hfold, fun k => ?_⟩
    have hwrite : (s.writeLane j ws[j.val]).lanes[k.val] = if k = j then ws[j.val] else s.lanes[k.val] :=
      s.readLane_writeLane j k ws[j.val]
    rw [hx k, hwrite]
    by_cases hkj : k = j
    · simp [hkj]
    · simp [hkj]

theorem foldl_writeLane_finRange (ws : Lanes) (s : State) :
    (List.finRange 12).foldl (fun t j => t.writeLane j ws[j.val]) s = { s with lanes := ws } := by
  obtain ⟨x, hfold, hx⟩ := foldl_writeLane (List.finRange 12) ws s
  have hlanes : x = ws := Vector.ext fun k hk => (hx ⟨k, hk⟩).trans (if_pos (List.mem_finRange _))
  rw [hfold, hlanes]

theorem foldl_respond_readLane (js : List (Fin 12)) (s : State) :
    js.foldl (fun t j => t.respond (t.readLane j)) s = { s with responses := s.responses ++ js.map s.readLane } := by
  induction js generalizing s with
  | nil => simp
  | cons j js ih =>
    have hread : (s.respond (s.readLane j)).readLane = s.readLane := rfl
    rw [List.foldl_cons, ih, hread, State.respond_responses, List.append_assoc]
    rfl

theorem map_readLane_finRange (s : State) : (List.finRange 12).map s.readLane = s.lanes.toList := by
  refine List.ext_getElem (by simp) fun k _ _ => ?_
  simp [State.readLane]

/-- Twelve accepted WRL load the state (R64). -/
theorem run_ldst {s : State} {ws : Lanes} {rest : List Pins} (hready : s.cmdReady = true)
    (hin : s.inputs = (List.finRange 12).map (fun i => offer (wrlWord i ws[i.val])) ++ rest) :
    run 12 s = .next { s with lanes := ws, inputs := rest } :=
  (run_of_offers (fun i => hasEffect_wrlWord i ws[i.val]) (List.finRange 12) rest hready hin).trans
    (congrArg _ (foldl_writeLane_finRange ws _))

/-- Twelve accepted RDL answer the state (R64). -/
theorem run_rdst {s : State} {rest : List Pins} (hready : s.cmdReady = true)
    (hin : s.inputs = (List.finRange 12).map (fun i => offer (rdlWord i)) ++ rest) :
    run 12 s = .next { s with responses := s.responses ++ s.lanes.toList, inputs := rest } := by
  refine (run_of_offers hasEffect_rdlWord (List.finRange 12) rest hready hin).trans ?_
  rw [foldl_respond_readLane, map_readLane_finRange]

theorem holdOffers_ldst (ws : Lanes) (vs : List CommandWord) :
    holdOffers 0 ((List.finRange 12).map (fun i => wrlWord i ws[i.val]) ++ vs) =
      (List.finRange 12).map (fun i => offer (wrlWord i ws[i.val])) ++ holdOffers 0 vs := by
  rw [holdOffers_append, List.map_map]
  · rfl
  · exact List.forall_mem_map.mpr fun i _ => busySteps_wrlWord i ws[i.val]

theorem holdOffers_rdst :
    holdOffers 0 ((List.finRange 12).map rdlWord) = (List.finRange 12).map fun i => offer (rdlWord i) := by
  have h := holdOffers_append (List.forall_mem_map.mpr fun i (_ : i ∈ List.finRange 12) => busySteps_rdlWord i) []
  simpa [holdOffers, Function.comp_def] using h

/-- Settles O41: none of the twelve words makes the host wait, so they are accepted one per step (`run_ldst`). -/
theorem ldstLoadsTheState : Obligations.LdstLoadsTheState := by
  intro s ws words rest hready hwords hin
  obtain rfl : (List.finRange 12).map (fun i => wrlWord i ws[i.val]) = words :=
    Option.some.inj ((mapM_assemble_ldst ws).symm.trans hwords)
  have hoffers := holdOffers_ldst ws []
  rw [List.append_nil, holdOffers, List.append_nil] at hoffers
  exact run_ldst hready (hoffers ▸ hin)

/-- Settles O42: as for LDST, with the twelve reads (`run_rdst`). -/
theorem rdstAnswersTheState : Obligations.RdstAnswersTheState := by
  intro s words rest hready hwords hin
  obtain rfl : (List.finRange 12).map rdlWord = words := Option.some.inj (mapM_assemble_rdst.symm.trans hwords)
  exact run_rdst hready (holdOffers_rdst ▸ hin)

/-! ### APPLY (R64, R76) -/

/-- After `PERM r` the host holds its first RDL for the `r` steps of the rounds. -/
theorem holdOffers_perm_rdst {r : Nat} (hr : r ≤ 12) :
    holdOffers 0 (commandWord 0b10#2 (BitVec.ofNat 4 r) 0#32 :: (List.finRange 12).map rdlWord) =
      offer (commandWord 0b10#2 (BitVec.ofNat 4 r) 0#32) ::
        (List.replicate r (offer (rdlWord 0)) ++ (List.finRange 12).map fun i => offer (rdlWord i)) := by
  have hbusy : busySteps (commandWord 0b10#2 (BitVec.ofNat 4 r) 0#32) = r := by
    rw [busySteps_perm (by rw [toNat_ofNat_idx hr]; exact hr), toNat_ofNat_idx hr]
  have hwait : holdOffers r ((List.finRange 12).map rdlWord) =
      List.replicate r (offer (rdlWord 0)) ++ holdOffers 0 ((List.finRange 12).map rdlWord) :=
    holdOffers_wait r (rdlWord 0) _
  rw [holdOffers, hbusy, hwait, holdOffers_rdst]
  rfl

/-- An accepted `PERM r` and its `r` rounds, while words are offered that are not yet accepted. -/
theorem run_perm_held {s : State} {r : Nat} {w : CommandWord} {rest : List Pins} (hr : r ≤ 12)
    (hready : s.cmdReady = true)
    (hin : s.inputs = offer (commandWord 0b10#2 (BitVec.ofNat 4 r) 0#32) :: (List.replicate r (offer w) ++ rest)) :
    run (r + 1) s = .next { s with lanes := permute r s.lanes, inputs := rest } := by
  have hidx : (BitVec.ofNat 4 r).toNat = r := toNat_ofNat_idx hr
  have hrun := permComputesThePermutation s (BitVec.ofNat 4 r) 0#32 (List.replicate r (offer w) ++ rest)
  simp only [hidx] at hrun
  have hheld : (List.replicate r (offer w) ++ rest).take r = List.replicate r (offer w) :=
    List.take_left' List.length_replicate
  have hleft : (List.replicate r (offer w) ++ rest).drop r = rest := List.drop_left' List.length_replicate
  rw [hheld, hleft] at hrun
  refine hrun hr hready hin fun p hp => ?_
  rw [List.eq_of_mem_replicate hp]
  rfl

/-- Settles O40: twelve writes (`run_ldst`), PERM and its `r` rounds while the first read is held (`run_perm_held`), and
twelve reads (`run_rdst`). -/
theorem applyAnswersThePermutation : Obligations.ApplyAnswersThePermutation := by
  intro s r ws words rest hr hready hwords hin
  obtain rfl := Option.some.inj ((mapM_assemble_apply hr ws).symm.trans hwords)
  rw [holdOffers_ldst, holdOffers_perm_rdst hr, List.append_assoc, List.cons_append, List.append_assoc] at hin
  calc run (25 + r) s
      = run (12 + (r + 1 + 12)) s := congrArg (run · s) (by omega)
    _ = run (r + 1 + 12) _ := run_add (run_ldst hready hin)
    _ = run 12 _ := run_add (run_perm_held hr hready rfl)
    _ = _ := run_rdst hready rfl

end Sys2Proof.Machine
